-- ==== Sys2Proof/Word.lean ====
section
/-! DEFINITION. The words the manual treats as bits: a byte of a payload or a table entry, and the fields of a frame
whose width fixes their range (spec/12, Section 12.1). Quantities (levels, currents, times, counts) are plain `Nat`. -/

namespace Sys2Proof

/-- One byte of a payload, of a table entry or of a publication record. -/
abbrev Byte := BitVec 8

/-- A frame's class, 0 to 3, 0 the most urgent (spec/12, 12.1). -/
abbrev ClassNo := BitVec 2

/-- A topic, 0 to 1023 (spec/12, 12.1). -/
abbrev Topic := BitVec 10

/-- A node number, 0 to 63; 63 as a destination addresses all nodes (spec/00, 4.1). -/
abbrev Node := BitVec 6

/-- The 16 bit link check register (R176). -/
abbrev Check := BitVec 16

end Sys2Proof
end

