-- ==== Sys2Proof/Config.lean ====
section
/-! DEFINITION. The values the manual leaves free. Each is an opaque constant without a body: nothing can be proved of
its value, so a claim about the model holds whatever the value is (log entries 2, 3 and 4). Each is applied to
`State.choice`, a counter that the model advances at every use, so that two uses are not bound to agree. -/

namespace Sys2Proof

/-- Which of several events that come together is taken first (spec/00, 4.3; R37, R54, R134 and others): the due event
at place `pick n` modulo their number is carried out. -/
opaque Config.pick : Nat → Nat

/-- Whether the permit evaluation that an input change starts is taken before the action of the input's other reader
on the same change (R134 leaves the order open). -/
opaque Config.permitFirst : Nat → Bool

/-- Whether the start-up load, which takes at most 50 ms (R17, R87), ends at this millisecond. -/
opaque Config.loadEnds : Nat → Bool

/-- Whether the save, which takes at most 600 ms (R85), completes at this millisecond. -/
opaque Config.saveEnds : Nat → Bool

/-- R87: the load ends at most 50 ms after power-on. -/
def Config.loadMax : Nat := 50

/-- R85: the marker is set at most 600 ms after the taking of SAVE. -/
def Config.saveMax : Nat := 600

end Sys2Proof
end

