-- ==== Sys2Proof/Syntax.lean ====
section
/-! DEFINITION. The commands: one constructor for each row of spec/opcode_table.json. A command is an event that reaches
the part: a change of power, an event of a bus segment, the taking of the record at the head of the intake queue (one row
per verb), the completion of an operation, the expiry of a timer, or a change of a local input (spec/00, 4.3). -/

namespace Sys2Proof

/-- The two deck bus ports (spec/01). -/
inductive Port | trunk | spur
deriving DecidableEq, Repr

/-- The three axes (spec/00, 4.2). -/
inductive Axis | windlass | platform | hatch
deriving DecidableEq, Repr

/-- The two hydraulic axes (spec/09). -/
inductive Hyd | platform | hatch
deriving DecidableEq, Repr

/-- What the node-number straps and the two rate straps show when they are read (R175). -/
structure Straps where
  /-- the six node-number straps, 0 to 63 -/
  node : BitVec 6
  /-- the trunk rate strap tied high: 500 kbit/s, else 250 kbit/s -/
  trunkFast : Bool
  /-- the spur rate strap tied high: 125 kbit/s, else 62.5 kbit/s -/
  spurFast : Bool
deriving DecidableEq, Repr

/-- The new debounced levels of all end sensors of one hydraulic axis: changes taken at one sample on the sensors of
one axis are handed over together (R173). -/
inductive SensorLevels
  | platform (up deck down : Bool)
  | hatch (opened closed : Bool)
deriving DecidableEq, Repr

/-- The foot switches that change at one sample (R173: changes of both are handed over together). -/
inductive Feet | up | down | both
deriving DecidableEq, Repr

/-- The level of a group a fade moves (R92). -/
inductive Layer | base | output
deriving DecidableEq, Repr

/-- The commands, one for each row of spec/opcode_table.json, in its order. -/
inductive Instr
  /-- POWER_ON (R175), with the straps as they are tied -/
  | powerOn (straps : Straps)
  /-- START_UP_LOAD_END (R87) -/
  | startUpLoadEnd
  /-- POWER_LOSS (R18) -/
  | powerLoss
  /-- ARRIVAL (R3): the bits of a frame as the port read them, from the first bit of the class on (`true` recessive);
  a frame that ends early is read on through the recessive line -/
  | arrival (p : Port) (bits : List Bool)
  /-- IDLE_BUS (R2, R9) -/
  | idleBus (p : Port)
  /-- LOST_ARBITRATION (R5) -/
  | lostArbitration (p : Port)
  /-- TRANSMIT_ERROR (R6) -/
  | transmitError (p : Port)
  /-- COMPLETION (R7) -/
  | completion (p : Port)
  /-- UNKNOWN_VERB (R56, R177): the taking of a head record whose verb is absent or unknown for its kind -/
  | unknownVerb
  /-- SCENE (R99): the taking of a head record with this verb; so for every verb below -/
  | scene
  /-- GROUP_SET (R97) -/
  | groupSet
  /-- ALL_OFF (R100) -/
  | allOff
  /-- OVR_PUSH (R105) -/
  | ovrPush
  /-- OVR_RELEASE (R105) -/
  | ovrRelease
  /-- WL_HAUL (R159) -/
  | wlHaul
  /-- WL_PAYOUT (R159) -/
  | wlPayout
  /-- WL_HOME (R159) -/
  | wlHome
  /-- WL_TO (R159) -/
  | wlTo
  /-- CHAIN_SET (R158) -/
  | chainSet
  /-- PF_MOVE (R138) -/
  | pfMove
  /-- HT_MOVE (R138) -/
  | htMove
  /-- AXIS_STOP (R145) -/
  | axisStop
  /-- ALL_STOP (R145) -/
  | allStop
  /-- CLEAR_FAULT (R147) -/
  | clearFault
  /-- CLEAR_ESTOP (R154) -/
  | clearEstop
  /-- CURSOR (R74) -/
  | cursor
  /-- WRITE (R76) -/
  | write
  /-- READ (R78) -/
  | read
  /-- COMMIT (R80) -/
  | commit
  /-- DISCARD (R84) -/
  | discard
  /-- SAVE (R85) -/
  | save
  /-- SAVE_COMPLETION (R85) -/
  | saveCompletion
  /-- RESET (R89) -/
  | reset
  /-- READ_EVENTS (R70) -/
  | readEvents
  /-- PUBLISH_NOW (R68) -/
  | publishNow
  /-- SPACING_EXPIRY (R64) of a publication record's spacing timer -/
  | spacingExpiry (r : Fin 7)
  /-- REFRESH_EXPIRY (R65) -/
  | refreshExpiry
  /-- SLOT_EXPIRY (R46) of a watch slot -/
  | slotExpiry (n : Fin 32)
  /-- FADE_STEP (R92) of the base or the output fade of a group -/
  | fadeStep (g : Fin 12) (l : Layer)
  /-- START_WINDOW_EXPIRY (R141) -/
  | startWindowExpiry (a : Axis)
  /-- START_TIME_EXPIRY (R142) -/
  | startTimeExpiry (a : Axis)
  /-- VALVE_LEAD_EXPIRY (R150) -/
  | valveLeadExpiry (h : Hyd)
  /-- VALVE_LAG_EXPIRY (R150) -/
  | valveLagExpiry (h : Hyd)
  /-- TRAVEL_TIMEOUT_EXPIRY (R150) -/
  | travelTimeoutExpiry (h : Hyd)
  /-- KEEP_ALIVE_EXPIRY (R161) -/
  | keepAliveExpiry
  /-- STALL_EXPIRY (R162) -/
  | stallExpiry
  /-- REVERSAL_PAUSE_EXPIRY (R165) -/
  | reversalPauseExpiry
  /-- RAMP_STEP (R160) -/
  | rampStep
  /-- BRIDGE_CYCLE_START (R170) -/
  | bridgeCycleStart
  /-- PERIOD_START (R167) of a PWM bank -/
  | periodStart (b : Fin 3)
  /-- SENSOR_CHANGE (R148), with the new levels of the axis's sensors -/
  | sensorChange (levels : SensorLevels)
  /-- HOME_INPUT_CHANGE (R158), with the new level -/
  | homeInputChange (active : Bool)
  /-- GYPSY_PULSE (R157) -/
  | gypsyPulse
  /-- FOOT_PRESS (R163): the named switches turn pressed -/
  | footPress (f : Feet)
  /-- FOOT_RELEASE (R163): the named switches turn released -/
  | footRelease (f : Feet)
  /-- GENERAL_INPUT_CHANGE (R131) of a general input, with the new level -/
  | generalInputChange (n : Fin 4) (active : Bool)
  /-- ESTOP_ACTIVATION (R153) -/
  | estopActivation
  /-- ESTOP_FALL (R154) -/
  | estopFall
  /-- OVERCURRENT_CHANGE (R162), with the new level -/
  | overcurrentChange (active : Bool)
  /-- START_OF_FRAME (R2) from another node -/
  | startOfFrame (p : Port)
deriving DecidableEq, Repr

end Sys2Proof
end

