-- ==== Sys2Proof/Decode.lean ====
section
/-! DEFINITION. The commands that the opcode table's words spell. The table gives no row any bits, since the commands are
events and not words, so no word spells one (log entry 9). The bits of a frame on the line are read in
`Machine/Frames.lean`. -/

namespace Sys2Proof

/-- The command an opcode table word spells: none, since no row of the table has bits. -/
def decodeTableWord (_nbits _w : Nat) : Option Instr := none

end Sys2Proof
end

