-- ==== Sys2Proof/Machine/State.lean ====
section
/-! DEFINITION. Everything the manual says the part holds, block by block (spec/00, Section 2), as plain data, with the
queue of waiting commands, and the machine right after reset. Every block has a structure of its own. A timer is an
`Option Nat`: `none` while it is stopped, `some n` while it runs with `n` ms left. A switch or flag the manual calls
set or clear is a `Bool`. Fields marked "the model's own" are not the manual's. -/

namespace Sys2Proof.Machine

/-- No step of this machine ends in a fault: the manual names no event that stops the part. The type is empty, so a
fault outcome cannot be built (safe). -/
inductive Fault
deriving DecidableEq, Repr

/-- The reasons for which a command has no meaning. -/
inductive Refusal
  /-- Raised by `exec`'s arm of a command whose meaning is not written yet; no arm raises it here (safe). -/
  | notModelled (mnemonic : String)
deriving DecidableEq, Repr

/-- One value for each of the three axes. -/
structure PerAxis (α : Type) where
  windlass : α
  platform : α
  hatch : α
deriving DecidableEq, Repr

/-! ### Frames and ports (spec/01, spec/12) -/

/-- The kinds of frame; their order is that of the encoding (R4). -/
inductive Kind | state | command | reply | setup
deriving DecidableEq, Repr

/-- A frame (spec/01, spec/12 Section 12.1). The destination is absent in STATE frames alone. The length is the length
of the payload, and the link check of a good frame is a function of the other fields (R176), so neither is held. -/
structure Frame where
  cls : ClassNo
  kind : Kind
  topic : Topic
  src : Node
  dst : Option Node
  payload : List Byte
deriving DecidableEq, Repr

/-- The state of a port (R10, R11). -/
inductive PortPhase | active | degraded | isolated
deriving DecidableEq, Repr

/-- What a port does at its segment. -/
inductive Line
  /-- held off the segment until the start-up load ends (R17) -/
  | held
  /-- waiting for the gap of 10 recessive bit times, with the counts of the 10 MHz base still to go (R2) -/
  | gap (left : Nat)
  /-- released from the hold and not yet joined to the line (R17): the port waits for its first gap of 10 recessive bit
  times, with the counts of the 10 MHz base still to go, or `none` while a frame that it does not take up is under way -/
  | release (left : Option Nat)
  /-- the segment is idle (R2) -/
  | idle
  /-- another node's frame, or the rest of one, is being received (R3) -/
  | receiving
  /-- the port sends a frame of its own queue or of its forward queue: the frame in flight (R7), with the content it
  had when its sending began (R15) -/
  | sending (fromOwn : Bool) (f : Frame)
deriving DecidableEq, Repr

/-- An entry of an own queue: a reply, or the entry of a publication record (R14). -/
structure OwnEntry where
  /-- the record a publication entry carries; `none` for a reply -/
  record : Option (Fin 7)
  frame : Frame
  /-- the update mark of R15 -/
  changed : Bool
  /-- the entry leaves at the end of its sending, since its port is no longer a destination (R66) -/
  leaving : Bool
  /-- the entry is the frame in flight (R7) -/
  flying : Bool
  /-- the model's own: the place of the joining among all joinings at this port, from which R64's oldest reply is told -/
  joined : Nat
deriving DecidableEq, Repr

/-- One deck bus port (spec/01). -/
structure PortState where
  /-- the rate strap read high at power-on (R1) -/
  fast : Bool
  line : Line
  /-- port fault score, 0 to 255 (R8) -/
  score : Nat
  phase : PortPhase
  /-- recovery run count, 0 to 64 (R12) -/
  run : Nat
  /-- forward queue, oldest first, at most 16 (R13) -/
  fwd : List Frame
  /-- own queue, ordered by class, at most 12 (R14) -/
  own : List OwnEntry
  /-- the model's own: how many entries have joined the own queue -/
  joins : Nat
deriving DecidableEq, Repr

/-! ### Watch table (spec/03) -/

/-- The state of a watch slot (R40). -/
inductive SlotPhase | empty | fresh | stale
deriving DecidableEq, Repr

/-- The live state of a watch slot (R40). The length is the length of the payload. -/
structure Slot where
  phase : SlotPhase
  payload : List Byte
  lastSource : Node
  age : Nat
  /-- NEW -/
  fresh : Bool
  /-- the model's own: the step of the time base that brings the age to the limit has come, and the expiry stands -/
  due : Bool
deriving DecidableEq, Repr

/-! ### Executor and table store (spec/04, spec/05) -/

/-- A record of the intake queue (R27). -/
structure Request where
  port : Port
  broadcast : Bool
  cls : ClassNo
  kind : Kind
  topic : Topic
  src : Node
  payload : List Byte
deriving DecidableEq, Repr

/-- The nine tables (R73). -/
inductive Table | zone | topic | watch | permit | channel | group | scene | axis | watchLive
deriving DecidableEq, Repr

/-- The step mode of the cursor (R75). -/
inductive StepMode | inc | dec | hold
deriving DecidableEq, Repr

/-- The cursor (spec/05, 5.2). -/
structure Cursor where
  table : Table
  index : Nat
  mode : StepMode
deriving DecidableEq, Repr

/-- What the executor keeps of a publication record (R63, R64). -/
structure PubState where
  /-- the content the record held after the last event -/
  held : List Byte
  /-- the spacing timer, ms; `none` once expired -/
  spacing : Option Nat
  dueTrunk : Bool
  dueSpur : Bool
deriving DecidableEq, Repr

/-- A bank of tables 0 to 7, as a memory: the bytes that differ from the default entries of R88, with their places in
rising order (`Machine/Ops.lean` says where each entry stands and what an unlisted byte reads as). -/
abbrev Bank := List Host.Cell

/-- The executor's run-time state (R72). -/
structure Executor where
  /-- intake queue, ordered by class, at most 8 (R52) -/
  intake : List Request
  /-- the model's own: the step of the time base at which a record is taken has come (R55) -/
  takeDue : Bool
  /-- the save context: the SAVE record (R57) -/
  saveCtx : Option Request
  /-- the model's own: milliseconds since the taking of the SAVE under way (R85) -/
  saveAge : Nat
  cursor : Cursor
  /-- the write assembly (spec/05, 5.2) -/
  assembly : List Byte
  readOffset : Nat
  /-- the latched copy, empty while the read offset is 0 (R78) -/
  latched : List Byte
  /-- the event summary: flag n at bit n (R69) -/
  events : BitVec 16
  pubs : Vector PubState 7
  /-- the refresh timer, ms (R65) -/
  refresh : Option Nat
deriving DecidableEq, Repr

/-- The table store (spec/05). -/
structure Store where
  active : Bank
  shadow : Bank
  /-- the image in the non-volatile store -/
  image : Bank
  /-- the valid marker -/
  marker : Bool
  /-- a commit is PENDING (R83) -/
  commitPending : Bool
deriving DecidableEq, Repr

/-! ### Lighting (spec/06) -/

/-- A fade (R92): its target is the group's base or output target. -/
structure Fade where
  start : Nat
  elapsed : Nat
  /-- duration D in steps of 10 ms -/
  steps : Nat
  /-- milliseconds to the next step -/
  wait : Nat
deriving DecidableEq, Repr

/-- The output mode of a group (R94). -/
inductive OutMode | follow | governed | returning
deriving DecidableEq, Repr

/-- An entry of an override stack (spec/06, 6.5); its age among entries of equal priority is its place in the stack. -/
structure Override where
  /-- 0 to 15 bus, 16 WINDLASS, 17 PLATFORM, 18 HATCH, 19 ESTOP -/
  source : Nat
  priority : Nat
  level : Nat
  lock : Bool
deriving DecidableEq, Repr

/-- The run-time state of a lighting group (R91). -/
structure LightGroup where
  base : Nat
  baseTarget : Nat
  baseFade : Option Fade
  out : Nat
  outTarget : Nat
  outFade : Option Fade
  mode : OutMode
  /-- the override stack, top first, at most 4 (R102) -/
  stack : List Override
deriving DecidableEq, Repr

/-! ### Budget and permits (spec/07, spec/08) -/

/-- The source in force (R111). -/
inductive Source | shore | gen | batt | unknown
deriving DecidableEq, Repr

/-- The reservation record of an axis (R120). -/
inductive Reservation | none | start (s : Nat) | run (r : Nat)
deriving DecidableEq, Repr

/-- The budget state (spec/07). -/
inductive BudgetPhase | normal | shedding | overdrawn
deriving DecidableEq, Repr

/-- The budget unit (spec/07). -/
structure Budget where
  source : Source
  /-- limit L of the source in force, dA -/
  limit : Nat
  res : PerAxis Reservation
  /-- waiter list, head first (R121) -/
  waiters : List Axis
  phase : BudgetPhase
  /-- shed depth: 0 none, else the class being scaled -/
  depth : Nat
  k : Nat
  /-- granted level of each channel -/
  grants : Vector Nat 24
  /-- the model's own: the event in hand has started an evaluation (R113) that is still to be made; false between
  commands -/
  evalDue : Bool
deriving DecidableEq, Repr

/-- The six motions (spec/00, 4.2). -/
inductive Motion | wHaul | wPayout | pUp | pDown | hOpen | hClose
deriving DecidableEq, Repr

/-- The permit unit (spec/08). The permit of a motion is TRUE when the motion is not in the blocked set (R132). -/
structure Permits where
  results : Vector Bool 24
  /-- blocked-motion set, bits as in spec/12, 12.4 -/
  blocked : BitVec 6
  /-- stop-demand set -/
  stops : BitVec 6
deriving DecidableEq, Repr

/-! ### Axes and windlass (spec/09, spec/10) -/

/-- The life-cycle state of an axis (R137). -/
inductive AxisPhase | idle | starting | running | stopping | faulted
deriving DecidableEq, Repr

/-- The stopping places of the hydraulic axes (R137). -/
inductive Target | up | deck | down | opened | closed
deriving DecidableEq, Repr

/-- The positions of the axes (R129). -/
inductive Position | home | out | up | deck | down | opened | closed | between | unknown
deriving DecidableEq, Repr

/-- The last result of an axis (R137). -/
inductive LastResult
  | none | reached | stopped | noPermit | noBudget | noPump | busy | estop | fault | keepAlive | released
deriving DecidableEq, Repr

/-- The fault cause of an axis (R137). -/
inductive Cause | none | timeout | sensor | overcurrent | stall
deriving DecidableEq, Repr

/-- The state of one axis (R137). The direction is the motion in hand. Pump held is read off the pump list (R151). -/
structure AxisState where
  phase : AxisPhase
  dir : Option Motion
  target : Option Target
  pos : Position
  last : LastResult
  cause : Cause
  admitted : Bool
  window : Option Nat
  startTime : Option Nat
  travel : Option Nat
  lead : Option Nat
  lag : Option Nat
  /-- a sensor of the axis has been seen active since power-on (R148) -/
  seen : Bool
deriving DecidableEq, Repr

/-- The mode of the windlass (R156). -/
inductive WindlassMode | none | manualHaul | manualPayout | footHaul | footPayout | payoutTo | haulHome
deriving DecidableEq, Repr

/-- What the windlass drive holds beside its axis state (R156). -/
structure Windlass where
  mode : WindlassMode
  /-- pay-out target, mm -/
  payTarget : Nat
  /-- chain counter, mm -/
  counter : Nat
  referenced : Bool
  dutyTarget : Nat
  /-- applied duty -/
  duty : Nat
  /-- last driven direction -/
  lastDir : Option Motion
  keepAlive : Option Nat
  stall : Option Nat
  /-- reversal pause timer -/
  pause : Option Nat
  /-- ramp-step timer -/
  ramp : Option Nat
  spentUp : Bool
  spentDown : Bool
deriving DecidableEq, Repr

/-- The three axes, the pump arbiter and the e-stop latch (spec/09). -/
structure Axes where
  ax : PerAxis AxisState
  /-- the pump list; its head holds the grant (R151) -/
  pumpList : List Hyd
  latch : Bool
deriving DecidableEq, Repr

/-! ### Output stage and inputs (spec/11) -/

/-- The run-time part of a PWM bank (R167). -/
structure PwmBank where
  /-- 0 to one less than the period -/
  counter : Nat
  /-- the model's own: the count that ends the period has come, and the period start stands to be taken -/
  due : Bool
  /-- the period in force, counts of the 1 MHz base -/
  period : Nat
deriving DecidableEq, Repr

/-- The H-bridge (R170, R171): `dir` is the direction whose static leg was chosen when driving began, `none` while the
bridge is off; `count` is the 10 MHz timer within its cycle and `high` the h of the cycle. -/
structure Bridge where
  dir : Option Motion
  count : Nat
  high : Nat
deriving DecidableEq, Repr

/-- The output stage (spec/11). -/
structure Outputs where
  banks : Vector PwmBank 3
  /-- duty buffer of each channel -/
  buffers : Vector Nat 24
  /-- loaded duty of each channel -/
  loaded : Vector Nat 24
  /-- the polarity in force of each channel: active high -/
  activeHigh : Vector Bool 24
  /-- the channel holds its loaded duty (R169) -/
  hold : Vector Bool 24
  platformUp : Bool
  platformDown : Bool
  hatchOpen : Bool
  hatchClose : Bool
  /-- the pump contactor -/
  pump : Bool
  bridge : Bridge
deriving DecidableEq, Repr

/-- A debounced input (R173). -/
structure DebouncedInput where
  /-- the pin stands high, its inactive level -/
  pinHigh : Bool
  /-- the debounced level: active -/
  active : Bool
  /-- stability count -/
  count : Nat
deriving DecidableEq, Repr

/-- The local inputs (spec/11, 11.4). -/
structure Inputs where
  /-- platform UP 0, DECK 1, DOWN 2; hatch OPEN 3, CLOSED 4; anchor home 5; gypsy 6; foot UP 7, DOWN 8; general 9 to 12 -/
  debounced : Vector DebouncedInput 13
  /-- the e-stop pin stands high -/
  estopHigh : Bool
  /-- the judgement of the last sample of the e-stop pin (R174) -/
  estopSample : Bool
  /-- the e-stop input as last handed to the axis controller -/
  estopActive : Bool
  /-- the over-current pin stands high, its inactive level -/
  overHigh : Bool
  /-- the last sample of the over-current input: active -/
  overSample : Bool
  /-- the over-current level as last handed to the windlass drive: active -/
  overActive : Bool
  /-- the model's own: another node's frame is under way on the trunk while the port is held off it (R17) -/
  busyTrunk : Bool
  /-- the model's own: another node's frame is under way on the spur while the port is held off it (R17) -/
  busySpur : Bool
deriving DecidableEq, Repr

/-! ### The whole machine -/

/-- Whether the part has power, loads its tables, or runs (spec/05, 5.8). -/
inductive Power | off | loading | running
deriving DecidableEq, Repr

/-- The machine. -/
structure State where
  /-- the commands that are waiting, first in, first out -/
  pending : List Instr
  power : Power
  /-- the model's own: milliseconds since power-on, while the start-up load runs (R87) -/
  loadAge : Nat
  /-- counts of the 10 MHz base since the last step of the 1 ms time base, 0 to 9999 (spec/11, 11.5.1) -/
  clock : Nat
  /-- the model's own: how many free choices have been made (log entries 2 to 4) -/
  choice : Nat
  /-- the part's node number, read at power-on (R21) -/
  node : Node
  trunk : PortState
  spur : PortState
  watch : Vector Slot 32
  exe : Executor
  store : Store
  groups : Vector LightGroup 12
  /-- the request level of each channel (R107) -/
  requests : Vector Nat 24
  budget : Budget
  permits : Permits
  axes : Axes
  wl : Windlass
  out : Outputs
  inp : Inputs
deriving DecidableEq, Repr

/-! ### The values after power-on -/

/-- R16: a port at power-on, held off its segment (R17). -/
def PortState.initial (fast : Bool) : PortState :=
  { fast := fast, line := .held, score := 0, phase := .active, run := 0, fwd := [], own := [], joins := 0 }

/-- R50: an EMPTY slot. -/
def Slot.initial : Slot :=
  { phase := .empty, payload := [], lastSource := 0, age := 0, fresh := false, due := false }

/-- R72: the executor at power-on. -/
def Executor.initial : Executor :=
  { intake := [], takeDue := false, saveCtx := none, saveAge := 0,
    cursor := { table := .zone, index := 0, mode := .inc }, assembly := [], readOffset := 0, latched := [],
    events := 0, pubs := Vector.replicate 7 { held := [], spacing := none, dueTrunk := false, dueSpur := false },
    refresh := none }

/-- R108: a group at a level, in FOLLOW with an empty stack. -/
def LightGroup.initial (level : Nat) : LightGroup :=
  { base := level, baseTarget := level, baseFade := none, out := level, outTarget := level, outFade := none,
    mode := .follow, stack := [] }

/-- R125: the budget unit at power-on; the limit and the shed figures before the first evaluation are log entry 20. -/
def Budget.initial : Budget :=
  { source := .unknown, limit := 0, res := ⟨.none, .none, .none⟩, waiters := [], phase := .normal, depth := 0, k := 256,
    grants := Vector.replicate 24 0, evalDue := false }

/-- R135: until the start-up load ends every motion permit reads FALSE and the stop-demand set is empty. -/
def Permits.initial : Permits :=
  { results := Vector.replicate 24 true, blocked := BitVec.allOnes 6, stops := 0 }

/-- R155: an axis at power-on. -/
def AxisState.initial (pos : Position) : AxisState :=
  { phase := .idle, dir := none, target := none, pos := pos, last := .none, cause := .none, admitted := false,
    window := none, startTime := none, travel := none, lead := none, lag := none, seen := false }

/-- R155: the axis controller at power-on. -/
def Axes.initial : Axes :=
  { ax := ⟨AxisState.initial .out, AxisState.initial .unknown, AxisState.initial .unknown⟩, pumpList := [],
    latch := false }

/-- R166: the windlass drive at power-on. -/
def Windlass.initial : Windlass :=
  { mode := .none, payTarget := 0, counter := 0, referenced := false, dutyTarget := 0, duty := 0, lastDir := none,
    keepAlive := none, stall := none, pause := none, ramp := none, spentUp := false, spentDown := false }

/-- R169, R171, R172: every output off at power-on. -/
def Outputs.initial : Outputs :=
  { banks := Vector.replicate 3 { counter := 0, due := false, period := 1000 }, buffers := Vector.replicate 24 0,
    loaded := Vector.replicate 24 0, activeHigh := Vector.replicate 24 true, hold := Vector.replicate 24 false,
    platformUp := false, platformDown := false, hatchOpen := false, hatchClose := false, pump := false,
    bridge := { dir := none, count := 0, high := 0 } }

/-- Every input pin pulled up, so inactive (spec/11, 11.5.1), and no frame under way on the segments (log entry 20). -/
def Inputs.initial : Inputs :=
  { debounced := Vector.replicate 13 { pinHigh := true, active := false, count := 0 },
    estopHigh := true, estopSample := false, estopActive := false,
    overHigh := true, overSample := false, overActive := false, busyTrunk := false, busySpur := false }

/-- The machine right after power-on: the straps are read and the start-up load runs (R16, R17, R72, R125, R135, R155,
R166, R175). The straps, the input pins and an empty non-volatile store without marker are log entry 1. -/
def State.reset : State :=
  { pending := [], power := .loading, loadAge := 0, clock := 0, choice := 0, node := 0,
    trunk := PortState.initial false, spur := PortState.initial false,
    watch := Vector.replicate 32 Slot.initial, exe := Executor.initial,
    store := { active := [], shadow := [], image := [], marker := false, commitPending := false },
    groups := Vector.replicate 12 (LightGroup.initial 0), requests := Vector.replicate 24 0,
    budget := Budget.initial, permits := Permits.initial, axes := Axes.initial, wl := Windlass.initial,
    out := Outputs.initial, inp := Inputs.initial }

end Sys2Proof.Machine
end

