-- ==== Sys2Proof/Machine/Ops.lean ====
section
/-! DEFINITION. The named operations over the state that every block shares: vectors, the three axes, the ports, and the
banks of the table store as a memory in one canonical form (spec/05, 5.1; spec/12, 12.5). -/

namespace Sys2Proof.Machine

/-! ### Vectors and per-axis values -/

/-- The vector of `f` over the places of `v`. -/
def vmap {α β : Type} {n : Nat} (f : Fin n → α → β) (v : Vector α n) : Vector β n :=
  Vector.ofFn fun i => f i v[i]

/-- `v` with the value at one place changed by `f`. -/
def vupdate {α : Type} {n : Nat} (v : Vector α n) (i : Fin n) (f : α → α) : Vector α n :=
  v.set i (f v[i])

/-- The value of an axis. -/
def PerAxis.get {α : Type} (p : PerAxis α) : Axis → α
  | .windlass => p.windlass
  | .platform => p.platform
  | .hatch => p.hatch

/-- The values with that of one axis replaced. -/
def PerAxis.set {α : Type} (p : PerAxis α) (a : Axis) (x : α) : PerAxis α :=
  match a with
  | .windlass => { p with windlass := x }
  | .platform => { p with platform := x }
  | .hatch => { p with hatch := x }

/-- A hydraulic axis as an axis. -/
def hydAxis : Hyd → Axis
  | .platform => .platform
  | .hatch => .hatch

/-- The hydraulic axis an axis is, if it is one. -/
def axisHyd : Axis → Option Hyd
  | .windlass => none
  | .platform => some .platform
  | .hatch => some .hatch

/-- Axis numbers (spec/12, 12.2). -/
def axisCode : Axis → Nat
  | .windlass => 0
  | .platform => 1
  | .hatch => 2

/-- The three axes. -/
def allAxes : List Axis := [.windlass, .platform, .hatch]

def State.axis (s : State) (a : Axis) : AxisState := s.axes.ax.get a

def State.setAxis (s : State) (a : Axis) (x : AxisState) : State :=
  { s with axes := { s.axes with ax := s.axes.ax.set a x } }

/-- The state with one axis changed. -/
def State.mapAxis (s : State) (a : Axis) (f : AxisState → AxisState) : State := s.setAxis a (f (s.axis a))

/-- The hydraulic axis holds the pump grant: it stands at the head of the pump list (R151). -/
def State.holdsPump (s : State) (h : Hyd) : Bool := s.axes.pumpList.head? == some h

/-! ### Ports -/

/-- The port other than `p`. -/
def otherPort : Port → Port
  | .trunk => .spur
  | .spur => .trunk

def State.port (s : State) : Port → PortState
  | .trunk => s.trunk
  | .spur => s.spur

def State.setPort (s : State) (p : Port) (x : PortState) : State :=
  match p with
  | .trunk => { s with trunk := x }
  | .spur => { s with spur := x }

def State.mapPort (s : State) (p : Port) (f : PortState → PortState) : State := s.setPort p (f (s.port p))

/-- A list in order of a key, with an element placed behind every element of the same or a lower key and ahead of
every element of a higher key: the order of joining of R14 and R52. -/
def insertByKey {α : Type} (key : α → Nat) (x : α) : List α → List α
  | [] => [x]
  | y :: ys => if key y ≤ key x then y :: insertByKey key x ys else x :: y :: ys

/-- The list without the last element that satisfies `p`, if one does. -/
def eraseLast {α : Type} (p : α → Bool) : List α → Option (List α)
  | [] => none
  | y :: ys =>
    match eraseLast p ys with
    | some zs => some (y :: zs)
    | none => if p y then some ys else none

/-- One count off a running timer. -/
def tickTimer : Option Nat → Option Nat
  | none => none
  | some n => some (n - 1)

/-- A timer that runs and has reached its limit. -/
def timerDue (t : Option Nat) : Bool := t == some 0

/-! ### The place of a table entry in a bank -/

/-- How many entries a table has (R73). -/
def Table.entries : Table → Nat
  | .zone => 1
  | .topic => 1024
  | .watch => 32
  | .permit => 24
  | .channel => 24
  | .group => 12
  | .scene => 48
  | .axis => 3
  | .watchLive => 32

/-- How many bytes an entry of a table has (R73). -/
def Table.entryBytes : Table → Nat
  | .zone => 24
  | .topic => 2
  | .watch => 6
  | .permit => 12
  | .channel => 8
  | .group => 4
  | .scene => 50
  | .axis => 32
  | .watchLive => 12

/-- Table ids (R73). -/
def Table.code : Table → Nat
  | .zone => 0
  | .topic => 1
  | .watch => 2
  | .permit => 3
  | .channel => 4
  | .group => 5
  | .scene => 6
  | .axis => 7
  | .watchLive => 8

def Table.ofCode : Nat → Option Table
  | 0 => some .zone
  | 1 => some .topic
  | 2 => some .watch
  | 3 => some .permit
  | 4 => some .channel
  | 5 => some .group
  | 6 => some .scene
  | 7 => some .axis
  | 8 => some .watchLive
  | _ => none

/-- The eight banked tables, in order of id (R73). -/
def bankedTables : List Table := [.zone, .topic, .watch, .permit, .channel, .group, .scene, .axis]

/-- Where a banked table begins in a bank: the tables stand one after another in order of id. -/
def Table.base : Table → Nat
  | .zone => 0
  | .topic => 24
  | .watch => 2072
  | .permit => 2264
  | .channel => 2552
  | .group => 2744
  | .scene => 2792
  | .axis => 5192
  | .watchLive => 5288

/-- How many bytes a bank has. -/
def bankBytes : Nat := 5288

/-- The place of byte `o` of entry `i` of a table. -/
def bankAddr (t : Table) (i o : Nat) : Nat := t.base + i * t.entryBytes + o

/-- R88: byte `o` of the default entry `i` of a table, in the layout of spec/12, 12.5. R88 gives no value to bytes and bits that
no field reads, nor to the item places of a SCENE whose item count is 0: they are 0, the model's choice (log entry 37). -/
def defaultEntryByte (t : Table) (i o : Nat) : Byte :=
  match t with
  | .zone =>
    if o = 8 ∨ o = 21 then 255
    else if o = 20 then 1
    else if o = 10 ∨ o = 14 ∨ o = 16 ∨ o = 18 then 3
    else if o = 11 ∨ o = 15 ∨ o = 17 ∨ o = 19 then 232
    else 0
  | .topic => if o = 0 then 3 else 1
  | .watch => if o = 2 then 255 else if o = 3 then 3 else if o = 4 then 232 else 0
  | .permit => if o = 3 ∨ o = 11 then 1 else 0
  | .channel => if o = 3 then 3 else if o = 4 then 232 else if o = 7 then 48 else 0
  | .group | .scene | .watchLive => 0
  | .axis =>
    if o = 7 ∨ o = 10 then 255
    else if i = 0 then
      if o = 19 then 20
      else if o = 21 then 3
      else if o = 22 then 232
      else if o = 26 then 100
      else if o = 27 then 12
      else if o = 28 then 128
      else if o = 30 then 4
      else if o = 31 then 5
      else 0
    else if o = 13 ∨ o = 14 then 1
    else 0

/-- The default byte of a table's part of a bank. -/
def defaultAt (t : Table) (a : Nat) : Byte :=
  defaultEntryByte t ((a - t.base) / t.entryBytes) ((a - t.base) % t.entryBytes)

/-- What a byte of a bank that is not listed reads as: the default entries of R88, loaded when the marker is absent. -/
def defaultByte (a : Nat) : Byte :=
  if a < Table.topic.base then defaultAt .zone a
  else if a < Table.watch.base then defaultAt .topic a
  else if a < Table.permit.base then defaultAt .watch a
  else if a < Table.channel.base then defaultAt .permit a
  else if a < Table.group.base then defaultAt .channel a
  else if a < Table.scene.base then defaultAt .group a
  else if a < Table.axis.base then defaultAt .scene a
  else if a < bankBytes then defaultAt .axis a
  else 0

/-! ### A bank as a memory -/

/-- The byte a bank holds at a place. -/
def bankRead : Bank → Nat → Byte
  | [], a => defaultByte a
  | (k, v) :: r, a => if k = a then v else bankRead r a

/-- The canonical form of a bank: places strictly rising, none beyond the bank's end, and no byte listed that equals
what an unlisted one reads as. -/
def Memory.wf : Bank → Bool
  | [] => true
  | [(k, v)] => decide (k < bankBytes) && v != defaultByte k
  | (k, v) :: (k', v') :: r => decide (k < k') && v != defaultByte k && Memory.wf ((k', v') :: r)

/-- The bank with a byte written, kept in canonical form. -/
def bankWrite : Bank → Nat → Byte → Bank
  | [], a, v => if v = defaultByte a then [] else [(a, v)]
  | (k, w) :: r, a, v =>
    if a < k then (if v = defaultByte a then (k, w) :: r else (a, v) :: (k, w) :: r)
    else if a = k then (if v = defaultByte a then r else (a, v) :: r)
    else (k, w) :: bankWrite r a v

/-- Bytes written from a place on. -/
def bankWriteBytes (b : Bank) (a : Nat) : List Byte → Bank
  | [] => b
  | v :: vs => bankWriteBytes (bankWrite b a v) (a + 1) vs

/-- The bytes of an entry. -/
def bankEntry (b : Bank) (t : Table) (i : Nat) : List Byte :=
  (List.range t.entryBytes).map fun o => bankRead b (bankAddr t i o)

/-- An entry written whole (R76). -/
def bankSetEntry (b : Bank) (t : Table) (i : Nat) (e : List Byte) : Bank :=
  bankWriteBytes b (bankAddr t i 0) e

/-- The bank lists a byte of the entry, so the entry may differ from the default. -/
def bankTouches (b : Bank) (t : Table) (i : Nat) : Bool :=
  b.any fun c => decide (bankAddr t i 0 ≤ c.1) && decide (c.1 < bankAddr t (i + 1) 0)

/-- The listed bytes an entry's bytes become from a place on. -/
def cellsFrom (a : Nat) : List Byte → Bank
  | [] => []
  | v :: vs => if v = defaultByte a then cellsFrom (a + 1) vs else (a, v) :: cellsFrom (a + 1) vs

/-- The bank in which every entry that may differ from the default is replaced by `f` of it. -/
def bankMap (f : Table → Nat → List Byte → List Byte) (b : Bank) : Bank :=
  bankedTables.flatMap fun t =>
    (List.range t.entries).flatMap fun i =>
      if bankTouches b t i then cellsFrom (bankAddr t i 0) ((f t i (bankEntry b t i)).take t.entryBytes) else []

/-! ### Fields of entries -/

/-- A field of an entry: `bytes` bytes from `off` on are read as one number, most significant byte first, and the field
is `width` bits of it from bit `lo` (spec/12). -/
structure BitField where
  off : Nat
  bytes : Nat
  lo : Nat
  width : Nat
deriving DecidableEq, Repr

/-- Bytes read as one number, most significant byte first. -/
def beNat (l : List Byte) : Nat := l.foldl (fun n b => n * 256 + b.toNat) 0

/-- A number written in `n` bytes, most significant byte first. -/
def beBytes : Nat → Nat → List Byte
  | 0, _ => []
  | n + 1, v => beBytes n (v / 256) ++ [BitVec.ofNat 8 v]

/-- The value of a field in an entry's bytes. -/
def BitField.get (f : BitField) (e : List Byte) : Nat :=
  beNat ((e.drop f.off).take f.bytes) / 2 ^ f.lo % 2 ^ f.width

/-- An entry's bytes with a field's bits rewritten and every other bit kept. -/
def BitField.put (f : BitField) (e : List Byte) (v : Nat) : List Byte :=
  let n := beNat ((e.drop f.off).take f.bytes)
  let n' := n - n / 2 ^ f.lo % 2 ^ f.width * 2 ^ f.lo + v % 2 ^ f.width * 2 ^ f.lo
  e.take f.off ++ beBytes f.bytes n' ++ e.drop (f.off + f.bytes)

/-- A field of an entry of the active bank, read at the event (R73). -/
def State.field (s : State) (t : Table) (i : Nat) (f : BitField) : Nat :=
  beNat ((List.range f.bytes).map fun o => bankRead s.store.active (bankAddr t i (f.off + o))) / 2 ^ f.lo % 2 ^ f.width

/-- A yes/no field: 0 is no and any other code yes (R82). -/
def State.flag (s : State) (t : Table) (i : Nat) (f : BitField) : Bool := s.field t i f != 0

end Sys2Proof.Machine
end

