-- ==== Sys2Proof/Machine/Frames.lean ====
section
/-! DEFINITION. The frame on the line: its bits, its link check, and a receiver's reading of it (R3, R176; spec/12,
12.1). A bit is `true` when it is recessive (one) and `false` when it is dominant (zero). The start of frame is left
out: the bits run from the first bit of the class to the last of the end marker. -/

namespace Sys2Proof.Machine

/-- Kind codes (spec/12, 12.1). -/
def Kind.code : Kind → Nat
  | .state => 0
  | .command => 1
  | .reply => 2
  | .setup => 3

def Kind.ofCode (n : Nat) : Kind :=
  match n with
  | 0 => .state
  | 1 => .command
  | 2 => .reply
  | _ => .setup

/-- The key of a frame: the class, then the kind, then the topic (R4). -/
def Frame.key (f : Frame) : Nat := f.cls.toNat * 4096 + f.kind.code * 1024 + f.topic.toNat

/-- The `n` low bits of a number, most significant first. -/
def bitsOf : Nat → Nat → List Bool
  | 0, _ => []
  | n + 1, v => bitsOf n (v / 2) ++ [v % 2 == 1]

/-- The bits entered into the link check: from the first bit of the class to the last of the payload (R176). -/
def Frame.checkedBits (f : Frame) : List Bool :=
  bitsOf 2 f.cls.toNat ++ bitsOf 2 f.kind.code ++ bitsOf 10 f.topic.toNat ++ bitsOf 6 f.src.toNat ++
    (match f.dst with
     | none => []
     | some d => bitsOf 6 d.toNat) ++
    bitsOf 4 f.payload.length ++ f.payload.flatMap fun b => bitsOf 8 b.toNat

/-- The word of the polynomial x^16 + x^12 + x^5 + 1: ones at bits 12, 5 and 0 (R176). -/
def checkDivisor : Check := 0x1021#16

/-- One bit entered into the check register (R176). -/
def checkStep (r : Check) (b : Bool) : Check :=
  let shifted := r <<< 1
  if r.msb = b then shifted else shifted ^^^ checkDivisor

/-- The link check of the bits of a frame: the register starts with every bit one (R176). -/
def linkCheck (bits : List Bool) : Check := bits.foldl checkStep (BitVec.allOnes 16)

/-- The bits of a frame on the line, after the start of frame. -/
def Frame.lineBits (f : Frame) : List Bool :=
  f.checkedBits ++ bitsOf 16 (linkCheck f.checkedBits).toNat ++ [false, true]

/-- The first `n` bits of what a receiver reads; past the end of what was sent the line is recessive (R3). -/
def readPad : Nat → List Bool → List Bool
  | 0, _ => []
  | n + 1, [] => true :: readPad n []
  | n + 1, b :: bs => b :: readPad n bs

/-- Bits as a number, most significant first. -/
def natOf (bits : List Bool) : Nat := bits.foldl (fun n b => 2 * n + b.toNat) 0

/-- The number in the `n` bits of a reading from bit `at_` on. -/
def fieldAt (bits : List Bool) (at_ n : Nat) : Nat := natOf (readPad n (bits.drop at_))

/-- The `n` bytes of a reading from bit `at_` on. -/
def bytesAt (bits : List Bool) : Nat → Nat → List Byte
  | _, 0 => []
  | at_, n + 1 => BitVec.ofNat 8 (fieldAt bits at_ 8) :: bytesAt bits (at_ + 8) n

/-- The kind a receiver reads. -/
def readKind (bits : List Bool) : Kind := Kind.ofCode (fieldAt bits 2 2)

/-- Where the length field stands: after the destination, which a STATE frame has not. -/
def lengthAt (bits : List Bool) : Nat := if readKind bits = .state then 20 else 26

/-- The length field exceeds 8, so the receiver stops decoding at it (R3). -/
def overlong (bits : List Bool) : Bool := decide (8 < fieldAt bits (lengthAt bits) 4)

/-- A receiver's judgement of a frame: the good frame, or none where it is bad (R3). -/
def receive (bits : List Bool) : Option Frame :=
  let len := fieldAt bits (lengthAt bits) 4
  let payloadAt := lengthAt bits + 4
  let checkAt := payloadAt + 8 * len
  let checked := readPad checkAt bits
  if overlong bits then none
  else if fieldAt bits checkAt 16 ≠ (linkCheck checked).toNat then none
  else if fieldAt bits (checkAt + 16) 2 ≠ 1 then none
  else
    some
      { cls := BitVec.ofNat 2 (fieldAt bits 0 2)
        kind := readKind bits
        topic := BitVec.ofNat 10 (fieldAt bits 4 10)
        src := BitVec.ofNat 6 (fieldAt bits 14 6)
        dst := if readKind bits = .state then none else some (BitVec.ofNat 6 (fieldAt bits 20 6))
        payload := bytesAt bits payloadAt len }

/-- A frame has a destination exactly when its kind calls for one, and at most 8 payload bytes. -/
def Frame.wf (f : Frame) : Bool := (f.dst.isNone == (f.kind == .state)) && decide (f.payload.length ≤ 8)

end Sys2Proof.Machine
end

