-- ==== Sys2Proof/Machine/Operands.lean ====
section
/-! DEFINITION. The verbs and their arguments: verb codes, argument bytes, the policy for values out of range, and result
codes (R56, R61, R62, R177, R178; spec/12, 12.2 and 12.3). -/

namespace Sys2Proof.Machine

/-- Result codes (R59). -/
inductive Result
  | ok | accepted | done | busy | denied | badVerb | badArg | noPermit | noBudget | noPump | faulted | noPosition
  | partialDone | full
deriving DecidableEq, Repr

/-- Result codes on the bus (spec/12, 12.3). -/
def Result.code : Result → Byte
  | .ok => 0
  | .accepted => 1
  | .done => 2
  | .busy => 3
  | .denied => 4
  | .badVerb => 5
  | .badArg => 6
  | .noPermit => 7
  | .noBudget => 8
  | .noPump => 9
  | .faulted => 10
  | .noPosition => 11
  | .partialDone => 12
  | .full => 13

/-- The command that the taking of a record with this verb is, for a verb known for the kind (spec/12, 12.2). -/
def verbOf (k : Kind) (code : Nat) : Option Instr :=
  match k, code with
  | .command, 1 => some .scene
  | .command, 2 => some .groupSet
  | .command, 3 => some .allOff
  | .command, 4 => some .ovrPush
  | .command, 5 => some .ovrRelease
  | .command, 8 => some .wlHaul
  | .command, 9 => some .wlPayout
  | .command, 10 => some .wlHome
  | .command, 11 => some .wlTo
  | .command, 12 => some .chainSet
  | .command, 16 => some .pfMove
  | .command, 17 => some .htMove
  | .command, 24 => some .axisStop
  | .command, 25 => some .allStop
  | .command, 26 => some .clearFault
  | .command, 27 => some .clearEstop
  | .setup, 64 => some .cursor
  | .setup, 65 => some .write
  | .setup, 66 => some .read
  | .setup, 67 => some .commit
  | .setup, 68 => some .discard
  | .setup, 69 => some .save
  | .setup, 70 => some .reset
  | .setup, 71 => some .readEvents
  | .setup, 72 => some .publishNow
  | _, _ => none

/-- The command that the taking of a record is (R56, steps 1 and 2). -/
def takingOf (r : Request) : Instr :=
  match r.payload with
  | [] => .unknownVerb
  | v :: _ => (verbOf r.kind v.toNat).getD .unknownVerb

/-- The verb echo: the first payload byte, or 255 where there is none (R59, R177). -/
def echoOf (payload : List Byte) : Byte := payload.headD 255

/-- The argument byte `i`, counted from 1 after the verb. -/
def Request.arg (r : Request) (i : Nat) : Nat := (r.payload.getD i 0).toNat

/-- The two-byte argument from byte `i` on. -/
def Request.arg2 (r : Request) (i : Nat) : Nat := r.arg i * 256 + r.arg (i + 1)

/-- The three-byte argument from byte `i` on. -/
def Request.arg3 (r : Request) (i : Nat) : Nat := r.arg i * 65536 + r.arg (i + 1) * 256 + r.arg (i + 2)

/-- The record carries at least `n` argument bytes after the verb (R61). -/
def Request.hasArgs (r : Request) (n : Nat) : Bool := decide (n + 1 ≤ r.payload.length)

/-- An optional two-byte fade from byte `i` on, present only when both bytes are, and clamped (R62, R177). -/
def Request.optFade (r : Request) (i : Nat) : Option Nat :=
  if i + 2 ≤ r.payload.length then some (min 600 (r.arg2 i)) else none

/-- A level argument, clamped (R62). -/
def Request.level (r : Request) (i : Nat) : Nat := min 1000 (r.arg2 i)

/-- An axis argument (R62). -/
def axisOf : Nat → Option Axis
  | 0 => some .windlass
  | 1 => some .platform
  | 2 => some .hatch
  | _ => none

/-- A step mode argument (spec/12, 12.2). -/
def StepMode.ofCode : Nat → Option StepMode
  | 0 => some .inc
  | 1 => some .dec
  | 2 => some .hold
  | _ => none

/-- A platform target argument (spec/12, 12.2). -/
def platformTargetOf : Nat → Option Target
  | 0 => some .up
  | 1 => some .deck
  | 2 => some .down
  | _ => none

/-- A hatch target argument (spec/12, 12.2). -/
def hatchTargetOf : Nat → Option Target
  | 0 => some .opened
  | 1 => some .closed
  | _ => none

end Sys2Proof.Machine
end

