-- ==== Sys2Proof/Machine/Flags.lean ====
section
/-! DEFINITION. The event summary: its sixteen sticky flags, raising them, and the first pending number (R69 to R71). -/

namespace Sys2Proof.Machine

/-- The event flags (R69). -/
inductive Event
  | estop | faultW | faultP | faultH | overdrawn | sourceUnknown | trunkIsolated | spurIsolated | trunkDegraded
  | spurDegraded | forwardDrop | intakeEvicted | overrideEvicted | replyDropped | writeAbandoned | storeEmpty
deriving DecidableEq, Repr

/-- Flag numbers (R69). -/
def Event.number : Event → Fin 16
  | .estop => 0
  | .faultW => 1
  | .faultP => 2
  | .faultH => 3
  | .overdrawn => 4
  | .sourceUnknown => 5
  | .trunkIsolated => 6
  | .spurIsolated => 7
  | .trunkDegraded => 8
  | .spurDegraded => 9
  | .forwardDrop => 10
  | .intakeEvicted => 11
  | .overrideEvicted => 12
  | .replyDropped => 13
  | .writeAbandoned => 14
  | .storeEmpty => 15

/-- The flag of an axis's FAULTED entry (R146). -/
def faultEvent : Axis → Event
  | .windlass => .faultW
  | .platform => .faultP
  | .hatch => .faultH

/-- The flag of a port's DEGRADED entry (R10). -/
def degradedEvent : Port → Event
  | .trunk => .trunkDegraded
  | .spur => .spurDegraded

/-- The flag of a port's ISOLATED entry (R11). -/
def isolatedEvent : Port → Event
  | .trunk => .trunkIsolated
  | .spur => .spurIsolated

/-- The word with the flag of one event. -/
def Event.mask (e : Event) : BitVec 16 := BitVec.twoPow 16 e.number.val

/-- An event's flag is set. -/
def State.raised (s : State) (e : Event) : Bool := s.exe.events.getLsb e.number

/-- A raise sets the flag, and leaves a set flag set (R69). -/
def State.raise (s : State) (e : Event) : State :=
  { s with exe := { s.exe with events := s.exe.events ||| e.mask } }

/-- The raise of an event where a condition holds. -/
def State.raiseIf (s : State) (c : Bool) (e : Event) : State := if c then s.raise e else s

/-- The first pending event number, or 255 for none, as the ZONE record shows it (R69; spec/12, 12.4). -/
def firstPending (w : BitVec 16) : Nat :=
  match (List.finRange 16).find? fun i => w.getLsb i with
  | some i => i.val
  | none => 255

end Sys2Proof.Machine
end

