-- ==== Sys2Proof/Machine/Tables.lean ====
section
/-! DEFINITION. The fields of the table entries (spec/12, 12.5) and the field clamp on their way into the active bank
(R82, R127, R179). -/

namespace Sys2Proof.Machine

/-- The whole byte `o` of an entry as a field. -/
def byteField (o : Nat) : BitField := { off := o, bytes := 1, lo := 0, width := 8 }

/-- The two bytes from `o` of an entry as a field. -/
def wordField (o : Nat) : BitField := { off := o, bytes := 2, lo := 0, width := 16 }

/-! ### ZONE -/

def Zone.lShore : BitField := wordField 0
def Zone.lGen : BitField := wordField 2
def Zone.lBatt : BitField := wordField 4
def Zone.baseDraw : BitField := wordField 6
def Zone.sourceSlot : BitField := byteField 8
def Zone.sourceOffset : BitField := byteField 9
def Zone.publishBase : BitField := wordField 10
def Zone.publishSpur : BitField := byteField 12
def Zone.refresh : BitField := byteField 13
def Zone.period (b : Fin 3) : BitField := wordField (14 + 2 * b.val)
def Zone.estopPolarity : BitField := byteField 20
def Zone.estopGroup : BitField := byteField 21
def Zone.estopLevel : BitField := wordField 22

/-! ### TOPIC and WATCH -/

def TopicTable.down : BitField := { off := 0, bytes := 1, lo := 0, width := 1 }
def TopicTable.up : BitField := { off := 0, bytes := 1, lo := 1, width := 1 }
def TopicTable.accept : BitField := byteField 1

def WatchTable.enabled : BitField := { off := 0, bytes := 2, lo := 15, width := 1 }
def WatchTable.topic : BitField := { off := 0, bytes := 2, lo := 0, width := 10 }
def WatchTable.filter : BitField := byteField 2
def WatchTable.limit : BitField := wordField 3

/-! ### PERMIT -/

def PermitTable.enabled : BitField := { off := 0, bytes := 1, lo := 7, width := 1 }
def PermitTable.kind : BitField := { off := 0, bytes := 1, lo := 0, width := 2 }
/-- slot, input or axis, by the subject kind -/
def PermitTable.subject : BitField := byteField 1
def PermitTable.offset : BitField := byteField 2
def PermitTable.width : BitField := byteField 3
def PermitTable.test : BitField := byteField 4
def PermitTable.a : BitField := wordField 5
def PermitTable.b : BitField := wordField 7
def PermitTable.stale : BitField := byteField 9
def PermitTable.gated : BitField := { off := 10, bytes := 1, lo := 0, width := 6 }
def PermitTable.hold : BitField := byteField 11

/-! ### CHANNEL, GROUP and SCENE -/

def ChannelTable.enabled : BitField := byteField 0
def ChannelTable.group : BitField := byteField 1
def ChannelTable.rated : BitField := byteField 2
def ChannelTable.trim : BitField := wordField 3
def ChannelTable.floor : BitField := wordField 5
def ChannelTable.shed : BitField := { off := 7, bytes := 1, lo := 4, width := 4 }
def ChannelTable.polarity : BitField := { off := 7, bytes := 1, lo := 2, width := 2 }
def ChannelTable.idle : BitField := { off := 7, bytes := 1, lo := 0, width := 2 }

def GroupTable.transition : BitField := wordField 0
def GroupTable.powerUp : BitField := wordField 2

def SceneTable.count : BitField := wordField 0
def SceneTable.itemGroup (j : Nat) : BitField := byteField (2 + 4 * j)
def SceneTable.itemLevel (j : Nat) : BitField := { off := 3 + 4 * j, bytes := 3, lo := 12, width := 12 }
def SceneTable.itemFade (j : Nat) : BitField := { off := 3 + 4 * j, bytes := 3, lo := 0, width := 12 }

/-! ### AXIS -/

def AxisTable.fitted : BitField := { off := 0, bytes := 2, lo := 15, width := 1 }
def AxisTable.startTime : BitField := { off := 0, bytes := 2, lo := 0, width := 14 }
def AxisTable.startRes : BitField := { off := 2, bytes := 3, lo := 12, width := 12 }
def AxisTable.runRes : BitField := { off := 2, bytes := 3, lo := 0, width := 12 }
def AxisTable.window : BitField := wordField 5
/-- override 1 (`j = 0`) and 2 (`j = 1`) -/
def AxisTable.ovrGroup (j : Nat) : BitField := byteField (7 + 3 * j)
def AxisTable.ovrPriority (j : Nat) : BitField := { off := 8 + 3 * j, bytes := 2, lo := 13, width := 3 }
def AxisTable.ovrLevel (j : Nat) : BitField := { off := 8 + 3 * j, bytes := 2, lo := 0, width := 10 }
/-- travel timeout UP or OPEN (`j = 0`) and DOWN or CLOSE (`j = 1`) -/
def AxisTable.travel (j : Nat) : BitField := byteField (13 + j)
def AxisTable.lead : BitField := wordField 15
def AxisTable.lag : BitField := wordField 17
def AxisTable.haulDuty : BitField := { off := 13, bytes := 4, lo := 20, width := 10 }
def AxisTable.payoutDuty : BitField := { off := 13, bytes := 4, lo := 10, width := 10 }
def AxisTable.slowDuty : BitField := { off := 13, bytes := 4, lo := 0, width := 10 }
def AxisTable.rampTime : BitField := { off := 17, bytes := 3, lo := 11, width := 13 }
def AxisTable.pocket : BitField := { off := 17, bytes := 3, lo := 0, width := 11 }
def AxisTable.rode : BitField := { off := 20, bytes := 3, lo := 0, width := 24 }
def AxisTable.slowZone : BitField := wordField 23
def AxisTable.stallTime : BitField := wordField 25
def AxisTable.keepAlive : BitField := { off := 27, bytes := 3, lo := 12, width := 12 }
def AxisTable.pause : BitField := { off := 27, bytes := 3, lo := 0, width := 12 }
def AxisTable.frequency : BitField := byteField 30
def AxisTable.deadTime : BitField := byteField 31

/-! ### Reading fields in force -/

def State.zone (s : State) (f : BitField) : Nat := s.field .zone 0 f
def State.topicField (s : State) (t : Topic) (f : BitField) : Nat := s.field .topic t.toNat f
def State.watchField (s : State) (n : Fin 32) (f : BitField) : Nat := s.field .watch n.val f
def State.permitField (s : State) (e : Fin 24) (f : BitField) : Nat := s.field .permit e.val f
def State.channelField (s : State) (c : Fin 24) (f : BitField) : Nat := s.field .channel c.val f
def State.groupField (s : State) (g : Fin 12) (f : BitField) : Nat := s.field .group g.val f
def State.axisField (s : State) (a : Axis) (f : BitField) : Nat := s.field .axis (axisCode a) f

/-- The channel is enabled (R90). -/
def State.channelOn (s : State) (c : Fin 24) : Bool := s.channelField c ChannelTable.enabled != 0

/-- The axis is fitted (R137). -/
def State.fitted (s : State) (a : Axis) : Bool := s.axisField a AxisTable.fitted != 0

/-- A group number of a field or of a scene item, or none where it names no group. -/
def groupOf (n : Nat) : Option (Fin 12) := if h : n < 12 then some ⟨n, h⟩ else none

/-- The source slot of the ZONE entry, or none (R111). -/
def State.sourceSlot (s : State) : Option (Fin 32) :=
  let n := s.zone Zone.sourceSlot
  if h : n < 32 then some ⟨n, h⟩ else none

/-! ### The field clamp -/

/-- A numeric field above its range is taken as the top, below it as the bottom (R82). -/
def clampRange (lo hi v : Nat) : Nat := min hi (max lo v)

/-- A code that names no value is taken as the value stated for it (R82). -/
def clampCode (last other v : Nat) : Nat := if v ≤ last then v else other

/-- A field rewritten by its clamp. -/
def applyClamp (e : List Byte) (r : BitField × (Nat → Nat)) : List Byte := r.1.put e (r.2 (r.1.get e))

/-- The rules of R82 for the fields of SCENE items, those within the item count. -/
def sceneItemClamps : Nat → List (BitField × (Nat → Nat))
  | 0 => []
  | j + 1 =>
    sceneItemClamps j ++
      [(SceneTable.itemLevel j, clampRange 0 1000), (SceneTable.itemFade j, clampRange 0 600)]

/-- The clamp of each field of an entry (R82), in the encoding of spec/12. Fields that cannot leave their range, and
yes/no fields, have none. -/
def clampRules (t : Table) (i : Nat) (e : List Byte) : List (BitField × (Nat → Nat)) :=
  match t with
  | .zone =>
    [(Zone.lShore, clampRange 0 4095), (Zone.lGen, clampRange 0 4095), (Zone.lBatt, clampRange 0 4095),
     (Zone.baseDraw, clampRange 0 4095), (Zone.sourceSlot, clampCode 31 255), (Zone.sourceOffset, clampRange 0 7),
     (Zone.publishBase, clampRange 0 1017), (Zone.refresh, clampRange 0 60),
     (Zone.period 0, clampRange 500 10000), (Zone.period 1, clampRange 500 10000),
     (Zone.period 2, clampRange 500 10000), (Zone.estopPolarity, clampCode 1 1), (Zone.estopGroup, clampCode 11 255),
     (Zone.estopLevel, clampRange 0 1000)]
  | .topic => [(TopicTable.accept, clampCode 3 0)]
  | .watch => [(WatchTable.filter, clampCode 62 255), (WatchTable.limit, clampRange 50 60000)]
  | .permit =>
    [(PermitTable.offset, clampRange 0 7), (PermitTable.width, clampRange 1 2), (PermitTable.stale, clampCode 1 0),
     (PermitTable.hold, clampCode 1 1)]
  | .channel =>
    [(ChannelTable.trim, clampRange 0 1000), (ChannelTable.floor, clampRange 0 1000),
     (ChannelTable.shed, clampRange 0 3), (ChannelTable.polarity, clampCode 1 0), (ChannelTable.idle, clampCode 1 0)]
  | .group => [(GroupTable.transition, clampRange 0 600), (GroupTable.powerUp, clampRange 0 1000)]
  | .scene => (SceneTable.count, clampRange 0 12) :: sceneItemClamps (min 12 (SceneTable.count.get e))
  | .axis =>
    [(AxisTable.startTime, clampRange 0 10000), (AxisTable.startRes, clampRange 0 2000),
     (AxisTable.runRes, clampRange 0 2000), (AxisTable.window, clampRange 0 10000),
     (AxisTable.ovrGroup 0, clampCode 11 255), (AxisTable.ovrLevel 0, clampRange 0 1000),
     (AxisTable.ovrGroup 1, clampCode 11 255), (AxisTable.ovrLevel 1, clampRange 0 1000)] ++
    (if i = 0 then
      [(AxisTable.haulDuty, clampRange 0 1000), (AxisTable.payoutDuty, clampRange 0 1000),
       (AxisTable.slowDuty, clampRange 0 1000), (AxisTable.rampTime, clampRange 0 5000),
       (AxisTable.pocket, clampRange 20 400), (AxisTable.rode, clampRange 1000 400000),
       (AxisTable.slowZone, clampRange 0 20000), (AxisTable.stallTime, clampRange 100 10000),
       (AxisTable.keepAlive, clampRange 200 2000), (AxisTable.pause, clampRange 0 2000),
       (AxisTable.frequency, clampRange 4 20), (AxisTable.deadTime, clampRange 5 100)]
     else
      [(AxisTable.travel 0, clampRange 1 120), (AxisTable.travel 1, clampRange 1 120),
       (AxisTable.lead, clampRange 0 1000), (AxisTable.lag, clampRange 0 1000)])
  | .watchLive => []

/-- A PERMIT entry whose subject kind, test, slot, input or axis code names no value (R127, R179). -/
def permitNamesNone (e : List Byte) : Bool :=
  let k := PermitTable.kind.get e
  let n := PermitTable.subject.get e
  k == 3 || decide (7 < PermitTable.test.get e) || (k == 0 && decide (31 < n)) || (k == 1 && decide (6 < n)) ||
    (k == 2 && decide (2 < n))

/-- An entry as it comes into the active bank: each field clamped, and a PERMIT or CHANNEL entry that names no value
disabled (R82, R179). -/
def clampEntry (t : Table) (i : Nat) (e : List Byte) : List Byte :=
  let c := (clampRules t i e).foldl applyClamp e
  match t with
  | .permit => if permitNamesNone e then PermitTable.enabled.put c 0 else c
  | .channel => if 11 < ChannelTable.group.get e then ChannelTable.enabled.put c 0 else c
  | _ => c

/-- A bank passed through the field clamp (R81, R87). -/
def clampBank (b : Bank) : Bank := bankMap clampEntry b

end Sys2Proof.Machine
end

