-- ==== Sys2Proof/Machine/Lighting.lean ====
section
/-! DEFINITION. The lighting engine: fades, base commands, override stacks and channel requests (spec/06). -/

namespace Sys2Proof.Machine

/-! ### Fades -/

/-- The level at step `e` of a fade of `d` steps (R92), the quotient truncated toward zero. -/
def fadeLevel (start target e d : Nat) : Nat :=
  if start ≤ target then start + (target - start) * e / d else start - (start - target) * e / d

/-- A fade from a level to a target over `f` hundreds of milliseconds: the level and the fade after the starting event
(R92). A fade time of 0 sets the level at once. -/
def startFade (level target f : Nat) : Nat × Option Fade :=
  if f = 0 then (target, none) else (level, some { start := level, elapsed := 0, steps := f * 10, wait := 10 })

/-- One step of a fade toward a target: the level and the fade after it (R92). -/
def fadeAdvance (f : Fade) (target : Nat) : Nat × Option Fade :=
  let e := f.elapsed + 1
  (fadeLevel f.start target e f.steps, if f.steps ≤ e then none else some { f with elapsed := e, wait := 10 })

/-- One step of a group's base fade; in FOLLOW the output moves with the base (R94). -/
def stepBase (g : LightGroup) : LightGroup :=
  match g.baseFade with
  | none => g
  | some f =>
    let r := fadeAdvance f g.baseTarget
    { g with
      base := r.1
      baseFade := r.2
      out := if g.mode = .follow then r.1 else g.out }

/-- One step of a group's output fade; the completion of a return brings FOLLOW (R96). -/
def stepOut (g : LightGroup) : LightGroup :=
  match g.outFade with
  | none => g
  | some f =>
    let r := fadeAdvance f g.outTarget
    { g with
      out := r.1
      outFade := r.2
      mode := if r.2 = none ∧ g.mode = .returning then .follow else g.mode }

/-- A fade step of a group (R92). In RETURN the base fade and the output fade that a base command started together
step together and complete at the same step (R96). -/
def stepGroup (g : LightGroup) (l : Layer) : LightGroup :=
  if g.mode = .returning ∧ g.baseFade.isSome ∧ g.outFade.isSome then stepOut (stepBase g)
  else match l with
    | .base => stepBase g
    | .output => stepOut g

/-! ### Base commands -/

/-- The group is locked: the top entry of its stack carries a set lock flag (R101). -/
def LightGroup.locked (g : LightGroup) : Bool :=
  match g.stack with
  | [] => false
  | o :: _ => o.lock

/-- A base command: the base target is set and a base fade starts; the output follows as its mode requires (R94, R96,
R97). -/
def baseCommand (g : LightGroup) (level f : Nat) : LightGroup :=
  let b := startFade g.base level f
  let g' := { g with base := b.1, baseTarget := level, baseFade := b.2 }
  match g.mode with
  | .governed => g'
  | .follow => { g' with out := b.1, outTarget := level, outFade := none }
  | .returning =>
    let o := startFade g.out level f
    { g' with out := o.1, outTarget := level, outFade := o.2, mode := if f = 0 then .follow else .returning }

/-! ### The override stack -/

/-- What became of a push (R102, R103). -/
inductive PushResult | placed | evicted | refused
deriving DecidableEq, Repr

/-- An entry placed by the ordering rule: above the entries of equal or lower priority (R102). -/
def placeOverride (o : Override) : List Override → List Override
  | [] => [o]
  | y :: ys => if y.priority ≤ o.priority then o :: y :: ys else y :: placeOverride o ys

/-- The stack without the entry of a source. -/
def dropSource (src : Nat) (st : List Override) : List Override := st.filter fun o => o.source != src

/-- The stack holds an entry of the source. -/
def hasSource (src : Nat) (st : List Override) : Bool := st.any fun o => o.source == src

/-- A push onto a stack: replacement, placing, eviction or refusal (R102, R103). -/
def pushStack (st : List Override) (o : Override) : List Override × PushResult :=
  if hasSource o.source st then (placeOverride o (dropSource o.source st), .placed)
  else if st.length < 4 then (placeOverride o st, .placed)
  else match st.getLast? with
    | none => (placeOverride o st, .placed)
    | some low =>
      if low.priority < o.priority ∧ low.lock = false then (placeOverride o st.dropLast, .evicted)
      else (st, .refused)

/-- The top entry has changed: another source, or the same source with another level, or the stack was empty (R95). -/
def topChanged (old new : List Override) : Bool :=
  match old, new with
  | _, [] => false
  | [], _ :: _ => true
  | a :: _, b :: _ => a.source != b.source || a.level != b.level

/-- The output follows a change of the stack: a transition to the new governing level (R95), a return to the base
target once the stack has emptied (R96), or nothing. `t` is the transition time. -/
def afterStack (g : LightGroup) (new : List Override) (t : Nat) : LightGroup :=
  match new with
  | [] =>
    if g.stack = [] then g
    else
      let o := startFade g.out g.baseTarget t
      { g with
        base := g.baseTarget
        baseFade := none
        out := o.1
        outTarget := g.baseTarget
        outFade := o.2
        mode := if t = 0 then .follow else .returning
        stack := [] }
  | top :: rest =>
    if topChanged g.stack (top :: rest) then
      let o := startFade g.out top.level t
      { g with out := o.1, outTarget := top.level, outFade := o.2, mode := .governed, stack := top :: rest }
    else { g with stack := top :: rest }

/-- A push reaches a group (R95, R102, R103). -/
def pushGroup (g : LightGroup) (o : Override) (t : Nat) : LightGroup × PushResult :=
  let r := pushStack g.stack o
  (afterStack g r.1 t, r.2)

/-- A release reaches a group (R104). -/
def releaseGroup (g : LightGroup) (src t : Nat) : LightGroup :=
  if hasSource src g.stack then afterStack g (dropSource src g.stack) t else g

/-- A group brought to its zone-reset state (R109): running fades complete, the stack is emptied, and the output
returns to the base target where it differs. -/
def resetGroup (g : LightGroup) (t : Nat) : LightGroup :=
  let base := if g.baseFade.isSome then g.baseTarget else g.base
  let out := if g.outFade.isSome then g.outTarget else if g.mode = .follow then base else g.out
  let g' := { g with base := base, baseTarget := base, baseFade := none, outFade := none, outTarget := base, stack := [] }
  if out = base ∨ t = 0 then { g' with out := base, mode := .follow }
  else { g' with out := out, outFade := (startFade out base t).2, mode := .returning }

/-! ### The groups in the state -/

/-- The group's transition time in force, in units of 100 ms (R91). -/
def State.transition (s : State) (g : Fin 12) : Nat := s.groupField g GroupTable.transition

def State.mapGroup (s : State) (g : Fin 12) (f : LightGroup → LightGroup) : State :=
  { s with groups := vupdate s.groups g f }

/-- A base command to one group of the machine. -/
def State.baseCommand (s : State) (g : Fin 12) (level f : Nat) : State :=
  s.mapGroup g fun x => Sys2Proof.Machine.baseCommand x level f

/-- A push to one group, and what became of it; an eviction raises OVERRIDE_EVICTED (R103). -/
def State.pushOverride (s : State) (g : Fin 12) (o : Override) : State × PushResult :=
  let r := pushGroup s.groups[g] o (s.transition g)
  ((s.mapGroup g fun _ => r.1).raiseIf (r.2 == .evicted) .overrideEvicted, r.2)

/-- A push from an axis or from the e-stop logic: a refusal raises OVERRIDE_EVICTED too (R103). -/
def State.pushOwn (s : State) (g : Fin 12) (o : Override) : State :=
  let r := s.pushOverride g o
  r.1.raiseIf (r.2 == .refused) .overrideEvicted

/-- A release from one group (R104). -/
def State.releaseOverride (s : State) (g : Fin 12) (src : Nat) : State :=
  s.mapGroup g fun x => releaseGroup x src (s.transition g)

/-- A release of a source from every group that holds an entry of it (R106). -/
def State.releaseSource (s : State) (src : Nat) : State :=
  { s with groups := vmap (fun g x => releaseGroup x src (s.transition g)) s.groups }

/-- The override source of an axis (R106). -/
def axisSource : Axis → Nat
  | .windlass => 16
  | .platform => 17
  | .hatch => 18

/-- One of an axis's two overrides is pushed, unless its group is none (R106, R142). -/
def State.pushAxisOverride (s : State) (a : Axis) (j : Nat) : State :=
  match groupOf (s.axisField a (AxisTable.ovrGroup j)) with
  | none => s
  | some g =>
    s.pushOwn g
      { source := axisSource a, priority := s.axisField a (AxisTable.ovrPriority j),
        level := s.axisField a (AxisTable.ovrLevel j), lock := true }

/-- The e-stop override is pushed, unless its group is none (R106, R153). -/
def State.pushEstopOverride (s : State) : State :=
  match groupOf (s.zone Zone.estopGroup) with
  | none => s
  | some g => s.pushOwn g { source := 19, priority := 7, level := s.zone Zone.estopLevel, lock := true }

/-! ### Channel requests -/

/-- The request of a channel: its group's output level times its trim, by 1000, truncated; 0 when disabled (R107). -/
def State.channelRequest (s : State) (c : Fin 24) : Nat :=
  if s.channelOn c then
    match groupOf (s.channelField c ChannelTable.group) with
    | none => 0
    | some g => s.groups[g].out * s.channelField c ChannelTable.trim / 1000
  else 0

/-- The requests are recomputed; where any differs, the budget unit is to evaluate (R107, R113). -/
def State.refreshRequests (s : State) : State :=
  let r := Vector.ofFn fun c => s.channelRequest c
  if r = s.requests then s else { s with requests := r, budget := { s.budget with evalDue := true } }

end Sys2Proof.Machine
end

