-- ==== Sys2Proof/Machine/Outputs.lean ====
section
/-! DEFINITION. The output stage: PWM banks, the H-bridge, valves and pump (spec/11, 11.1 to 11.3), and what the pins
show. -/

namespace Sys2Proof.Machine

/-! ### Lighting PWM -/

/-- The bank that drives a channel: c / 8 (R90). -/
def bankOf (c : Fin 24) : Fin 3 := ⟨c.val / 8, by omega⟩

/-- The duty of a granted level in a period (R168). -/
def dutyOf (grant period : Nat) : Nat := grant * period / 1000

/-- The duty a channel's buffer takes from its grant, with the period in force of its bank (R168). -/
def State.bufferOf (s : State) (c : Fin 24) (grant : Nat) : Nat := dutyOf grant s.out.banks[bankOf c].period

/-- The channel's polarity in the active bank: active high (R168). -/
def State.polarityHigh (s : State) (c : Fin 24) : Bool := s.channelField c ChannelTable.polarity == 0

/-- A period start of a bank: its counter returns to 0, every duty buffer of its channels is loaded, but for a channel
that holds, and the polarity of each is taken (R167 to R169). -/
def State.periodStart (s : State) (b : Fin 3) : State :=
  { s with
    out :=
      { s.out with
        banks := vupdate s.out.banks b fun x => { x with counter := 0, due := false }
        loaded := vmap (fun c d => if bankOf c = b ∧ s.out.hold[c] = false then s.out.buffers[c] else d) s.out.loaded
        activeHigh := vmap (fun c p => if bankOf c = b then s.polarityHigh c else p) s.out.activeHigh } }

/-- A bank takes the period of the active ZONE entry: its buffers are recomputed from the present grants and it
restarts at a period start (R167, R168). -/
def State.restartBank (s : State) (b : Fin 3) : State :=
  let p := s.zone (Zone.period b)
  State.periodStart
    { s with
      out :=
        { s.out with
          banks := vupdate s.out.banks b fun _ => { counter := 0, due := false, period := p }
          buffers := vmap (fun c d => if bankOf c = b then dutyOf s.budget.grants[c] p else d) s.out.buffers } } b

/-- Every bank starts from 0 with the buffers of the present grants, and no channel holds (R169). -/
def State.restartOutputs (s : State) : State :=
  let s := { s with out := { s.out with hold := Vector.replicate 24 false } }
  ((s.restartBank 0).restartBank 1).restartBank 2

/-- A bank whose period field has changed restarts at an applied commit (R167). -/
def State.commitBank (s : State) (b : Fin 3) : State :=
  if s.zone (Zone.period b) = s.out.banks[b].period then s else s.restartBank b

/-- At an applied commit a channel that turns disabled with idle behaviour HOLD begins to hold, and goes on holding
while it stays so (R169). A channel that was disabled before begins no hold when its idle behaviour turns to HOLD, since
R169 speaks of the moment at which a channel became disabled (the model's choice, log entry 34). `old` says which channels
were enabled before. -/
def State.commitHolds (s : State) (old : Fin 24 → Bool) : State :=
  { s with
    out :=
      { s.out with
        hold := vmap (fun c h => !s.channelOn c && s.channelField c ChannelTable.idle == 1 && (old c || h)) s.out.hold } }

/-- The output stage at an applied commit (R167 to R169). -/
def State.commitOutputs (s : State) (old : Fin 24 → Bool) : State :=
  (((s.commitHolds old).commitBank 0).commitBank 1).commitBank 2

/-- What a lighting pin shows: none while undriven, else its level, true for high (R167 to R169). -/
def State.lightPin (s : State) (c : Fin 24) : Option Bool :=
  if s.power = .running then
    some ((decide (s.out.banks[bankOf c].counter < s.out.loaded[c])) == s.out.activeHigh[c])
  else none

/-! ### The H-bridge -/

/-- Counts of the 10 MHz base in a bridge cycle: 10,000,000 divided by the bridge frequency in Hz (R170). -/
def State.bridgeCycle (s : State) : Nat := 10000000 / (s.axisField .windlass AxisTable.frequency * 1000)

/-- The h of a cycle at an applied duty (R170). -/
def State.bridgeHigh (s : State) : Nat := s.wl.duty * s.bridgeCycle / 1000

/-- A bridge cycle starts at count 0 and takes the applied duty (R170). -/
def State.bridgeCycleStart (s : State) : State :=
  { s with out := { s.out with bridge := { s.out.bridge with count := 0, high := s.bridgeHigh } } }

/-- The applied duty is handed to the output stage (R160, R171). As it rises above 0 the bridge begins to drive in the
windlass's direction, which becomes the last driven direction; as it reaches 0 all four switches turn off and the
reversal pause starts (R165). -/
def State.setDuty (s : State) (v : Nat) : State :=
  let old := s.wl.duty
  let s := { s with wl := { s.wl with duty := v } }
  if old = 0 ∧ 0 < v then
    let m := s.axes.ax.windlass.dir
    State.bridgeCycleStart
      { s with
        wl := { s.wl with lastDir := m }
        out := { s.out with bridge := { s.out.bridge with dir := m } } }
  else if 0 < old ∧ v = 0 then
    let p := s.axisField .windlass AxisTable.pause
    { s with
      wl := { s.wl with pause := if p = 0 then none else some p }
      out := { s.out with bridge := { dir := none, count := 0, high := 0 } } }
  else s

/-- The four switches of the bridge. -/
structure Switches where
  aHigh : Bool
  aLow : Bool
  bHigh : Bool
  bLow : Bool
deriving DecidableEq, Repr

/-- The switches at a count of a cycle (R170): in PAYOUT leg A chops and leg B stands low, in HAUL leg B chops and leg A
stands low; all off while the bridge is off. `dt` is the dead time, `cycle` the cycle's counts. -/
def Bridge.switches (b : Bridge) (dt cycle : Nat) : Switches :=
  let hi := decide (dt ≤ b.count) && decide (b.count < b.high)
  let lo := decide (b.high + dt ≤ b.count) && decide (b.count < cycle)
  match b.dir with
  | some .wPayout => { aHigh := hi, aLow := lo, bHigh := false, bLow := true }
  | some .wHaul => { aHigh := false, aLow := true, bHigh := hi, bLow := lo }
  | _ => { aHigh := false, aLow := false, bHigh := false, bLow := false }

/-- The bridge switches of the machine. -/
def State.switches (s : State) : Switches :=
  s.out.bridge.switches (s.axisField .windlass AxisTable.deadTime) s.bridgeCycle

/-! ### Valves and pump -/

/-- The valve of a hydraulic motion is set (R150, R172). -/
def Outputs.setValve (o : Outputs) (m : Motion) (on : Bool) : Outputs :=
  match m with
  | .pUp => { o with platformUp := on }
  | .pDown => { o with platformDown := on }
  | .hOpen => { o with hatchOpen := on }
  | .hClose => { o with hatchClose := on }
  | .wHaul | .wPayout => o

/-- Both valves of a hydraulic axis are closed. -/
def Outputs.closeValves (o : Outputs) : Hyd → Outputs
  | .platform => { o with platformUp := false, platformDown := false }
  | .hatch => { o with hatchOpen := false, hatchClose := false }

/-- The pump contactor is set. -/
def State.setPump (s : State) (on : Bool) : State := { s with out := { s.out with pump := on } }

end Sys2Proof.Machine
end

