-- ==== Sys2Proof/Machine/Publish.lean ====
section
/-! DEFINITION. Own queues, replies and the seven publication records (R14, R15, R59, R60, R63 to R67; spec/12, 12.3 and
12.4). -/

namespace Sys2Proof.Machine

/-! ### The own queue -/

/-- The class an own queue is ordered by. -/
def OwnEntry.key (e : OwnEntry) : Nat := e.frame.cls.toNat

/-- Most entries an own queue holds (R14). -/
def ownMax : Nat := 12

/-- The own queue refuses what is offered: it holds 12 entries, or the port is ISOLATED (R11, R14). -/
def PortState.ownRefuses (ps : PortState) : Bool := ps.phase == .isolated || decide (ownMax ≤ ps.own.length)

/-- An entry joins the own queue by class (R14). -/
def PortState.joinOwn (ps : PortState) (record : Option (Fin 7)) (f : Frame) : PortState :=
  { ps with
    own := insertByKey OwnEntry.key
      { record := record, frame := f, changed := false, leaving := false, flying := false, joined := ps.joins } ps.own
    joins := ps.joins + 1 }

/-- The own queue holds an entry for a record. -/
def PortState.holdsRecord (ps : PortState) (r : Fin 7) : Bool := ps.own.any fun e => e.record == some r

/-- The entry of a record is updated in place: it keeps its position, and an entry in flight is marked (R14, R15). -/
def PortState.updateRecord (ps : PortState) (r : Fin 7) (f : Frame) : PortState :=
  { ps with
    own := ps.own.map fun e =>
      if e.record = some r then { e with frame := f, changed := e.flying, leaving := false } else e }

/-- A reply that may be removed for a publication: of class 2 or 3, and not in flight (R64). -/
def OwnEntry.removable (e : OwnEntry) : Bool := e.record.isNone && decide (2 ≤ e.frame.cls.toNat) && !e.flying

/-- The place of joining of the oldest removable reply (R64). -/
def oldestReply : List OwnEntry → Option Nat
  | [] => none
  | e :: es =>
    if e.removable then
      match oldestReply es with
      | none => some e.joined
      | some n => some (min e.joined n)
    else oldestReply es

/-! ### Replies -/

/-- The REPLY to a request (R59). -/
def State.replyFrame (s : State) (r : Request) (res : Result) (data : List Byte) : Frame :=
  { cls := r.cls, kind := .reply, topic := r.topic, src := s.node, dst := some r.src,
    payload := res.code :: echoOf r.payload :: data }

/-- A REPLY is composed and offered to the own queue of the arrival port, or dropped with REPLY_DROPPED (R59, R60). -/
def State.sendReply (s : State) (r : Request) (res : Result) (data : List Byte) : State :=
  if (s.port r.port).ownRefuses then s.raise .replyDropped
  else s.mapPort r.port fun ps => ps.joinOwn none (s.replyFrame r res data)

/-- A request is answered unless it was broadcast (R58, R59). -/
def State.answer (s : State) (r : Request) (res : Result) (data : List Byte) : State :=
  if r.broadcast then s else s.sendReply r res data

/-! ### The records -/

def PortPhase.code : PortPhase → Nat
  | .active => 0
  | .degraded => 1
  | .isolated => 2

def BudgetPhase.code : BudgetPhase → Nat
  | .normal => 0
  | .shedding => 1
  | .overdrawn => 2

def Source.code : Source → Nat
  | .shore => 0
  | .gen => 1
  | .batt => 2
  | .unknown => 3

def AxisPhase.code : AxisPhase → Nat
  | .idle => 0
  | .starting => 1
  | .running => 2
  | .stopping => 3
  | .faulted => 4

def Cause.code : Cause → Nat
  | .none => 0
  | .timeout => 1
  | .sensor => 2
  | .overcurrent => 3
  | .stall => 4

def LastResult.code : LastResult → Nat
  | .none => 0
  | .reached => 1
  | .stopped => 2
  | .noPermit => 3
  | .noBudget => 4
  | .noPump => 5
  | .busy => 6
  | .estop => 7
  | .fault => 8
  | .keepAlive => 9
  | .released => 10

/-- Position codes (spec/12, 12.4). -/
def Position.code : Position → Nat
  | .home => 0
  | .out => 1
  | .up => 0
  | .deck => 1
  | .down => 2
  | .closed => 0
  | .opened => 1
  | .between => 3
  | .unknown => 4

/-- Direction codes (spec/12, 12.4). -/
def dirCode : Option Motion → Nat
  | none => 0
  | some .wHaul => 1
  | some .pUp => 1
  | some .hOpen => 1
  | some .wPayout => 2
  | some .pDown => 2
  | some .hClose => 2

/-- The ZONE record (spec/12, 12.4). -/
def State.zoneRecord (s : State) : List Byte :=
  [BitVec.ofNat 8 (s.trunk.phase.code * 64 + s.spur.phase.code * 16 + s.budget.phase.code * 4 + s.budget.source.code),
   BitVec.ofNat 8 s.budget.depth] ++ beBytes 2 s.budget.k ++
  [BitVec.ofNat 8 (s.axes.latch.toNat * 128 + s.permits.blocked.toNat), BitVec.ofNat 8 (firstPending s.exe.events)]

/-- The three bytes every AXIS record begins with (spec/12, 12.4). -/
def AxisState.record (x : AxisState) : List Byte :=
  [BitVec.ofNat 8 (x.phase.code * 16 + x.cause.code), BitVec.ofNat 8 (x.pos.code * 16 + dirCode x.dir),
   BitVec.ofNat 8 x.last.code]

/-- The output levels of four groups from one on (spec/12, 12.4). -/
def State.groupsRecord (s : State) (g : Fin 12) : List Byte :=
  beBytes 2 s.groups[g].out ++ beBytes 2 s.groups[g + 1].out ++ beBytes 2 s.groups[g + 2].out ++
    beBytes 2 s.groups[g + 3].out

/-- The present content of a publication record (R63). -/
def State.recordContent (s : State) (r : Fin 7) : List Byte :=
  match r with
  | 0 => s.zoneRecord
  | 1 => s.axes.ax.windlass.record ++ beBytes 3 s.wl.counter ++ [BitVec.ofNat 8 s.wl.referenced.toNat]
  | 2 => s.axes.ax.platform.record
  | 3 => s.axes.ax.hatch.record
  | 4 => s.groupsRecord 0
  | 5 => s.groupsRecord 4
  | 6 => s.groupsRecord 8

/-- The STATE frame that carries a record (R63). -/
def State.recordFrame (s : State) (r : Fin 7) : Frame :=
  { cls := 2, kind := .state, topic := BitVec.ofNat 10 (s.zone Zone.publishBase + r.val), src := s.node, dst := none,
    payload := s.recordContent r }

/-- A port is a destination of the records: the trunk, and the spur when publish-to-spur is yes (R63). -/
def State.destination (s : State) : Port → Bool
  | .trunk => true
  | .spur => s.zone Zone.publishSpur != 0

/-- The spacing timer of a record starts (R64). -/
def State.startSpacing (s : State) (r : Fin 7) : State :=
  { s with exe := { s.exe with pubs := vupdate s.exe.pubs r fun x => { x with spacing := some 100 } } }

/-- A new entry for a record joins a port's own queue, which starts the record's spacing timer (R64). -/
def State.joinRecord (s : State) (p : Port) (r : Fin 7) : State :=
  (s.mapPort p fun ps => ps.joinOwn (some r) (s.recordFrame r)).startSpacing r

/-- Queuing a record on a port (R64): update in place, a new entry, a new entry in the room of the oldest routine reply,
or waiting. -/
def State.queueRecord (s : State) (p : Port) (r : Fin 7) : State :=
  let ps := s.port p
  if ps.holdsRecord r then s.mapPort p fun x => x.updateRecord r (s.recordFrame r)
  else if ps.phase = .isolated then s
  else if ps.own.length < ownMax then s.joinRecord p r
  else
    match oldestReply ps.own with
    | none => s
    | some n =>
      ((s.mapPort p fun x => { x with own := x.own.filter fun e => e.joined != n }).raise .replyDropped).joinRecord p r

/-- The due mark of a record for a port, set or cleared (R64). -/
def State.setDue (s : State) (p : Port) (r : Fin 7) (v : Bool) : State :=
  { s with
    exe :=
      { s.exe with
        pubs := vupdate s.exe.pubs r fun x =>
          match p with
          | .trunk => { x with dueTrunk := v }
          | .spur => { x with dueSpur := v } } }

/-- The due mark of a record for a port. -/
def PubState.due (x : PubState) : Port → Bool
  | .trunk => x.dueTrunk
  | .spur => x.dueSpur

/-- What a change of a record does on one destination port (R64). `expired` is the spacing timer before the change. -/
def State.changeOnPort (s : State) (r : Fin 7) (expired : Bool) (p : Port) : State :=
  if s.destination p then
    if (s.port p).holdsRecord r then s.queueRecord p r
    else if expired then s.queueRecord p r
    else s.setDue p r true
  else s

/-- A record whose content differs from the one held has changed (R63, R64). The contents are compared at the end of each
event, and ZONE's at the end of each evaluation too (R119); a field that leaves its value and returns to it in between is no
change (the model's choice, log entry 36). -/
def State.publishOne (s : State) (r : Fin 7) : State :=
  let c := s.recordContent r
  if c = s.exe.pubs[r].held then s
  else
    let expired := s.exe.pubs[r].spacing.isNone
    let s := { s with exe := { s.exe with pubs := vupdate s.exe.pubs r fun x => { x with held := c } } }
    (s.changeOnPort r expired .trunk).changeOnPort r expired .spur

/-- Every changed record is published (R64). Where one event changes several, they join an own queue in order of number,
which the manual leaves open (the model's choice, log entry 31). -/
def State.publishAll (s : State) : State := (List.finRange 7).foldl State.publishOne s

/-- The records changed by an event are published (R64). Publishing may itself raise REPLY_DROPPED and so change the ZONE
record, which the second pass publishes. -/
def State.publish (s : State) : State := if s.power = .running then s.publishAll.publishAll else s

/-- Every record is queued on one port, as at a refresh, and its due marks for that port are cleared (R65, R67). The
records join in order of number, which the manual leaves open (the model's choice, log entry 31). -/
def State.queueAllOn (s : State) (p : Port) : State :=
  if s.destination p then
    (List.finRange 7).foldl (fun s r => (s.queueRecord p r).setDue p r false) s
  else (List.finRange 7).foldl (fun s r => s.setDue p r false) s

/-- Every record is queued on every destination port (R65, R67). -/
def State.queueAll (s : State) : State := (s.queueAllOn .trunk).queueAllOn .spur

/-- The records hold their present content. -/
def State.holdContents (s : State) : State :=
  { s with exe := { s.exe with pubs := vmap (fun r x => { x with held := s.recordContent r }) s.exe.pubs } }

/-- The refresh timer is started over the refresh interval in force; an interval of 0 stops it (R65). -/
def State.startRefresh (s : State) : State :=
  let n := s.zone Zone.refresh
  { s with exe := { s.exe with refresh := if n = 0 then none else some (n * 1000) } }

end Sys2Proof.Machine
end

