-- ==== Sys2Proof/Machine/Budget.lean ====
section
/-! DEFINITION. The budget unit: the source in force, draws and shedding, admission, and the evaluation (spec/07). -/

namespace Sys2Proof.Machine

/-! ### The source in force -/

/-- The source a byte names (R111). -/
def sourceOfByte (b : Nat) : Source := if b = 0 then .shore else if b = 1 then .gen else .batt

/-- The source in force by the source slot's live state (R111). -/
def State.sourceNow (s : State) : Source :=
  match s.sourceSlot with
  | none => .unknown
  | some n =>
    let slot := s.watch[n]
    if slot.phase = .fresh then
      match slot.payload[s.zone Zone.sourceOffset]? with
      | none => .unknown
      | some b => sourceOfByte b.toNat
    else .unknown

/-- The limit of a source: UNKNOWN takes the least of the three (R111). -/
def State.limitOf (s : State) (src : Source) : Nat :=
  match src with
  | .shore => s.zone Zone.lShore
  | .gen => s.zone Zone.lGen
  | .batt => s.zone Zone.lBatt
  | .unknown => min (s.zone Zone.lShore) (min (s.zone Zone.lGen) (s.zone Zone.lBatt))

/-! ### Draws and grants -/

/-- What the budget unit reads of a channel (R114). -/
structure Chan where
  on : Bool
  rated : Nat
  request : Nat
  floor : Nat
  cls : Nat
deriving DecidableEq, Repr

def State.chan (s : State) (c : Fin 24) : Chan :=
  { on := s.channelOn c, rated := s.channelField c ChannelTable.rated, request := s.requests[c],
    floor := s.channelField c ChannelTable.floor, cls := s.channelField c ChannelTable.shed }

def State.chans (s : State) : List Chan := (List.finRange 24).map s.chan

/-- The draw of a rated current at a level, rounded up (R114). -/
def draw (rated v : Nat) : Nat := (rated * v + 999) / 1000

/-- The effective floor: the lesser of floor and request (R114). -/
def Chan.low (c : Chan) : Nat := min c.floor c.request

/-- A channel's grant with class `d` scaled by `k`: classes above `d` at their effective floors, classes below `d` and
class 0 at their requests (R116). With `d = 4` every channel has its request. -/
def Chan.grant (c : Chan) (d k : Nat) : Nat :=
  if c.on = false then 0
  else if c.cls = 0 ∨ c.cls < d then c.request
  else if c.cls = d then c.low + (c.request - c.low) * k / 256
  else c.low

/-- The total draw of the enabled channels so granted. -/
def totalDraw (cs : List Chan) (d k : Nat) : Nat := (cs.map fun c => draw c.rated (c.grant d k)).sum

/-- The request draw R (R114). -/
def requestDraw (cs : List Chan) : Nat := totalDraw cs 4 0

/-- The floor draw P (R114), which equals T_1 (R117). -/
def floorDraw (cs : List Chan) : Nat := totalDraw cs 1 0

/-- The largest number up to `n` that satisfies `p`, or 0. -/
def largestUpTo (p : Nat → Bool) : Nat → Nat
  | 0 => 0
  | n + 1 => if p (n + 1) then n + 1 else largestUpTo p n

/-- The outcome of an evaluation for the lighting: budget state, shed depth and k. -/
structure Verdict where
  phase : BudgetPhase
  depth : Nat
  k : Nat
deriving DecidableEq, Repr

/-- Class `d` is scaled by the largest k with which the total draw fits the allowance (R116). -/
def scaled (cs : List Chan) (allow d : Nat) : Verdict :=
  { phase := .shedding, depth := d, k := largestUpTo (fun k => decide (totalDraw cs d k ≤ allow)) 256 }

def overdrawnVerdict : Verdict := { phase := .overdrawn, depth := 1, k := 0 }

/-- The shedding of the lighting to a limit less base draw and reservations (R115 to R117). -/
def verdict (cs : List Chan) (limit taken : Nat) : Verdict :=
  if limit < taken then overdrawnVerdict
  else
    let allow := limit - taken
    if requestDraw cs ≤ allow then { phase := .normal, depth := 0, k := 256 }
    else if totalDraw cs 3 0 ≤ allow then scaled cs allow 3
    else if totalDraw cs 2 0 ≤ allow then scaled cs allow 2
    else if totalDraw cs 1 0 ≤ allow then scaled cs allow 1
    else overdrawnVerdict

/-- A channel's grant under a verdict. -/
def Chan.granted (c : Chan) (v : Verdict) : Nat :=
  match v.phase with
  | .normal => c.grant 4 0
  | .shedding => c.grant v.depth v.k
  | .overdrawn => c.grant 1 0

/-! ### Reservations and admission -/

/-- What a reservation counts for (R120). -/
def Reservation.amount : Reservation → Nat
  | .none => 0
  | .start n => n
  | .run n => n

/-- The motion reservation sum M (R120). -/
def State.reserved (s : State) : Nat :=
  s.budget.res.windlass.amount + s.budget.res.platform.amount + s.budget.res.hatch.amount

/-- The axis is admitted and holds its start reservation (R122). -/
def State.grantAdmission (s : State) (a : Axis) : State :=
  State.mapAxis
    { s with
      budget :=
        { s.budget with
          res := s.budget.res.set a (.start (s.axisField a AxisTable.startRes))
          waiters := s.budget.waiters.erase a } } a fun x => { x with admitted := true }

/-- The waiters tested from head to tail; one that fits with the lighting at its floors is admitted (R122). -/
def State.testWaiters (s : State) (floors : Nat) : List Axis → State
  | [] => s
  | a :: rest =>
    let need := s.zone Zone.baseDraw + s.reserved + s.axisField a AxisTable.startRes + floors
    State.testWaiters (if need ≤ s.budget.limit then s.grantAdmission a else s) floors rest

/-! ### The evaluation -/

/-- Stage 1: the source in force and the limit; an entry into UNKNOWN raises SOURCE_UNKNOWN (R111, R112). -/
def State.takeSource (s : State) : State :=
  let src := s.sourceNow
  let s' := s.raiseIf (src == .unknown && s.budget.source != .unknown) .sourceUnknown
  { s' with budget := { s'.budget with source := src, limit := s.limitOf src } }

/-- Stage 4 and the handing on: budget state, grants, and the duty buffers of the channels whose grant differs; an
entry into OVERDRAWN raises its flag (R115 to R119, R168). -/
def State.takeVerdict (s : State) (v : Verdict) : State :=
  let g := Vector.ofFn fun c => (s.chan c).granted v
  let s' := s.raiseIf (v.phase == .overdrawn && s.budget.phase != .overdrawn) .overdrawn
  { s' with
    budget := { s'.budget with phase := v.phase, depth := v.depth, k := v.k, grants := g, evalDue := false }
    out :=
      { s'.out with
        buffers :=
          vmap (fun c d => if g[c] = s.budget.grants[c] then d else s.bufferOf c g[c]) s'.out.buffers } }

/-- An evaluation, carried out whole (R113). -/
def State.evaluate (s : State) : State :=
  let s := s.takeSource
  let s := s.testWaiters (floorDraw s.chans) s.budget.waiters
  s.takeVerdict (verdict s.chans s.budget.limit (s.zone Zone.baseDraw + s.reserved))

/-- The event in hand starts an evaluation (R113). -/
def State.wantEval (s : State) : State := { s with budget := { s.budget with evalDue := true } }

/-- The changed requests are handed on, and the budget unit evaluates where the event calls for it (R107, R113). Used where the
records are published by rules of their own afterwards: at a commit, a zone reset and the end of the load (R66, R67). -/
def State.evalIfDue (s : State) : State :=
  let s := s.refreshRequests
  if s.budget.evalDue then s.evaluate else s

/-- The results of an evaluation reach the executor, which publishes ZONE where its content differs from the one held (R119,
R64). Before the release at the end of the load no record is published (R67). -/
def State.handOn (s : State) : State := if s.power = .running then s.publishOne 0 else s

/-- The changed requests are handed on, and where the event calls for it the budget unit evaluates and hands on its results
(R107, R113, R119). -/
def State.evalHandOn (s : State) : State :=
  let s := s.refreshRequests
  if s.budget.evalDue then s.evaluate.handOn else s

/-- A reservation switches to RUN with Rr, and the budget unit evaluates (R120). -/
def State.switchToRun (s : State) (a : Axis) : State :=
  State.wantEval
    { s with budget := { s.budget with res := s.budget.res.set a (.run (s.axisField a AxisTable.runRes)) } }

/-- The axis leaves the waiter list and its reservation is released; the budget unit evaluates where either was held
(R120, R121). -/
def State.leaveBudget (s : State) (a : Axis) : State :=
  let held := s.budget.waiters.contains a || s.budget.res.get a != .none
  { s with
    budget :=
      { s.budget with
        waiters := s.budget.waiters.erase a
        res := s.budget.res.set a .none
        evalDue := s.budget.evalDue || held } }

end Sys2Proof.Machine
end

