-- ==== Sys2Proof/Machine/AxisOps.lean ====
section
/-! DEFINITION. What the axis controller and the windlass drive do at the entries into the life-cycle states, the duty and
its ramp, and the pump arbiter (spec/09, spec/10). -/

namespace Sys2Proof.Machine

/-! ### Motions, inputs and positions -/

/-- The axis of a motion (spec/00, 4.2). -/
def Motion.axis : Motion → Axis
  | .wHaul => .windlass
  | .wPayout => .windlass
  | .pUp => .platform
  | .pDown => .platform
  | .hOpen => .hatch
  | .hClose => .hatch

/-- Bit numbers of the motions in the blocked-motion set (spec/12, 12.4). -/
def Motion.bit : Motion → Fin 6
  | .wHaul => 0
  | .wPayout => 1
  | .pUp => 2
  | .pDown => 3
  | .hOpen => 4
  | .hClose => 5

/-- The six motions, in order of their bits. -/
def allMotions : List Motion := [.wHaul, .wPayout, .pUp, .pDown, .hOpen, .hClose]

/-- The level of a debounced input, active or not (R173). -/
def State.input (s : State) (i : Fin 13) : Bool := s.inp.debounced[i].active

def homeInput : Fin 13 := 5
def gypsyInput : Fin 13 := 6
def footUpInput : Fin 13 := 7
def footDownInput : Fin 13 := 8
def generalInput (n : Fin 4) : Fin 13 := ⟨9 + n.val, by omega⟩

/-- The end sensor of a target (R149). -/
def targetSensor : Target → Fin 13
  | .up => 0
  | .deck => 1
  | .down => 2
  | .opened => 3
  | .closed => 4

/-- The position a target's sensor names (R148). -/
def Target.position : Target → Position
  | .up => .up
  | .deck => .deck
  | .down => .down
  | .opened => .opened
  | .closed => .closed

/-- The stopping places of a hydraulic axis. -/
def hydTargets : Hyd → List Target
  | .platform => [.up, .deck, .down]
  | .hatch => [.opened, .closed]

/-- The targets whose sensors stand active. -/
def State.activeTargets (s : State) (h : Hyd) : List Target :=
  (hydTargets h).filter fun t => s.input (targetSensor t)

/-- A sensor conflict stands: two or more end sensors of the axis are active (R148). -/
def State.conflict (s : State) (h : Hyd) : Bool := decide (2 ≤ (s.activeTargets h).length)

/-- The position of a hydraulic axis by its sensors and the mark of a sensor seen; an axis that is not fitted holds
UNKNOWN (R148). -/
def State.hydPosition (s : State) (h : Hyd) : Position :=
  if s.fitted (hydAxis h) then
    match s.activeTargets h with
    | [t] => t.position
    | [] => if (s.axis (hydAxis h)).seen then .between else .unknown
    | _ => .unknown
  else .unknown

/-- The position of the windlass by the anchor-home input; a windlass that is not fitted holds OUT (R156). -/
def State.windlassPosition (s : State) : Position :=
  if s.fitted .windlass && s.input homeInput then .home else .out

/-- The position of an axis by its inputs. -/
def State.positionNow (s : State) (a : Axis) : Position :=
  match axisHyd a with
  | none => s.windlassPosition
  | some h => s.hydPosition h

/-- The axis takes the position its inputs give. -/
def State.derivePosition (s : State) (a : Axis) : State :=
  s.mapAxis a fun x => { x with pos := s.positionNow a }

/-! ### Windlass modes -/

/-- The motion of a windlass mode (R156). -/
def WindlassMode.motion : WindlassMode → Option Motion
  | .none => Option.none
  | .manualHaul => some .wHaul
  | .footHaul => some .wHaul
  | .haulHome => some .wHaul
  | .manualPayout => some .wPayout
  | .footPayout => some .wPayout
  | .payoutTo => some .wPayout

/-- A mode that a keep-alive holds (R159). -/
def WindlassMode.manual (m : WindlassMode) : Bool := m == .manualHaul || m == .manualPayout

/-- A mode of a foot run (R163). -/
def WindlassMode.foot (m : WindlassMode) : Bool := m == .footHaul || m == .footPayout

/-- A foot run is in progress: from its STARTING entry until the windlass next enters IDLE or FAULTED (R163). -/
def State.footRun (s : State) : Bool :=
  s.wl.mode.foot &&
    (match s.axes.ax.windlass.phase with
     | .starting => true
     | .running => true
     | .stopping => true
     | _ => false)

/-- The windlass's target is reached for a mode and a pay-out target: the home input in a haul mode, the counter in
PAYOUT_TO (R159, R161). -/
def State.windlassReached (s : State) (m : WindlassMode) (target : Nat) : Bool :=
  match m with
  | .manualHaul => s.input homeInput
  | .footHaul => s.input homeInput
  | .haulHome => s.input homeInput
  | .payoutTo => decide (target ≤ s.wl.counter)
  | .none => false
  | .manualPayout => false
  | .footPayout => false

/-! ### IDLE and FAULTED entries -/

/-- Every output of the axis is turned off at once (R144, R146): the windlass's bridge, or the valves of a hydraulic axis
and, where it holds the pump, the pump contactor. -/
def State.outputsOff (s : State) (a : Axis) : State :=
  match axisHyd a with
  | none => s.setDuty 0
  | some h =>
    let s' := { s with out := s.out.closeValves h }
    if s.holdsPump h then s'.setPump false else s'

/-- The axis leaves the pump list; a holder releases the grant to the axis behind it (R151). -/
def State.leavePump (s : State) (a : Axis) : State :=
  match axisHyd a with
  | none => s
  | some h => { s with axes := { s.axes with pumpList := s.axes.pumpList.erase h } }

/-- The timers of an axis, all stopped (R144). -/
def AxisState.stopTimers (x : AxisState) : AxisState :=
  { x with window := none, startTime := none, travel := none, lead := none, lag := none }

/-- The windlass drive's timers stopped, but for the reversal pause, which runs on (R144, R165). -/
def Windlass.stopTimers (w : Windlass) : Windlass := { w with keepAlive := none, stall := none, ramp := none }

/-- What the windlass drive does at its axis's entry into IDLE (R156, R160). -/
def State.windlassIdle (s : State) (a : Axis) : State :=
  if a = .windlass then { s with wl := { s.wl.stopTimers with mode := .none, payTarget := 0, dutyTarget := 0 } } else s

/-- What the windlass drive does at its axis's entry into FAULTED (R146, R160). -/
def State.windlassFault (s : State) (a : Axis) : State :=
  if a = .windlass then { s with wl := { s.wl.stopTimers with dutyTarget := 0 } } else s

/-- An axis's record after its entry into IDLE (R144). R144 does not name the target; that it is none in IDLE is the
model's choice (log entry 35). -/
def AxisState.toIdle (x : AxisState) (last : LastResult) : AxisState :=
  { x.stopTimers with phase := .idle, dir := none, target := none, last := last, cause := .none, admitted := false }

/-- An entry into IDLE (R144): outputs off and timers stopped, waiter list and reservation, pump, overrides, and the
axis's own fields. The overrides are released here, before an axis that the freed pump or reservation lets enter RUNNING at
the same event pushes its own, in `settle`; R106 allows either order (the model's choice, log entry 38). -/
def State.enterIdle (s : State) (a : Axis) (last : LastResult) : State :=
  let s := (s.outputsOff a).windlassIdle a
  let s := (s.leaveBudget a).leavePump a
  (s.releaseSource (axisSource a)).mapAxis a fun x => x.toIdle last

/-- An axis's record after its entry into FAULTED (R146); the direction is kept. R146 does not name the target; that it
is kept too is the model's choice (log entry 35). -/
def AxisState.toFaulted (x : AxisState) (c : Cause) : AxisState :=
  { x.stopTimers with phase := .faulted, last := .fault, cause := c, admitted := false }

/-- An entry into FAULTED (R146): outputs off at once, timers stopped, reservation and pump released, the flag raised;
the overrides stay. -/
def State.enterFaulted (s : State) (a : Axis) (c : Cause) : State :=
  let s := (s.outputsOff a).windlassFault a
  let s := (s.leaveBudget a).leavePump a
  (s.mapAxis a fun x => x.toFaulted c).raise (faultEvent a)

/-! ### Duty and ramp -/

/-- The duty target by state, direction, counter and referenced flag (R160). -/
def State.dutyTargetNow (s : State) : Nat :=
  match s.axes.ax.windlass.phase with
  | .running =>
    match s.axes.ax.windlass.dir with
    | some .wPayout => s.axisField .windlass AxisTable.payoutDuty
    | some .wHaul =>
      if s.wl.referenced && decide (s.axisField .windlass AxisTable.slowZone < s.wl.counter) then
        s.axisField .windlass AxisTable.haulDuty
      else s.axisField .windlass AxisTable.slowDuty
    | _ => 0
  | _ => 0

/-- The step of the ramp: the greater of 1 and 10,000 by the ramp time (R160). -/
def rampDelta (rampTime : Nat) : Nat := max 1 (10000 / rampTime)

/-- A duty moved toward a target by at most `d` (R160). -/
def rampToward (duty target d : Nat) : Nat :=
  if duty ≤ target then min target (duty + d) else max target (duty - d)

/-- The windlass runs or stops, so its duty is ramped. -/
def State.ramping (s : State) : Bool :=
  match s.axes.ax.windlass.phase with
  | .running => true
  | .stopping => true
  | _ => false

/-- The applied duty is set, with what follows at once: an over-current fault as driving begins while the input stands
active (R162), and the completion of a stop as the duty stands at 0 in STOPPING (R160). -/
def State.applyDuty (s : State) (v : Nat) : State :=
  let begins := s.wl.duty == 0 && decide (0 < v)
  let s := s.setDuty v
  if begins && s.inp.overActive then s.enterFaulted .windlass .overcurrent
  else if s.axes.ax.windlass.phase = .stopping ∧ v = 0 then s.enterIdle .windlass s.axes.ax.windlass.last
  else s

/-- The duty target is formed afresh; a ramp time of 0 sets the applied duty to it at the event, and a stop whose applied
duty stands at 0 completes at the event (R160). -/
def State.formDuty (s : State) : State :=
  let t := s.dutyTargetNow
  let s := { s with wl := { s.wl with dutyTarget := t } }
  if s.ramping then
    if s.axisField .windlass AxisTable.rampTime = 0 then s.applyDuty t else s.applyDuty s.wl.duty
  else s

/-- A step of the ramp (R160). -/
def State.rampNow (s : State) : State :=
  let r := s.axisField .windlass AxisTable.rampTime
  s.applyDuty (if r = 0 then s.wl.dutyTarget else rampToward s.wl.duty s.wl.dutyTarget (rampDelta r))

/-! ### STOPPING -/

/-- A windlass enters STOPPING (R143, R161): its start time and stall timers stop, and it ramps down. -/
def State.stopWindlass (s : State) (last : LastResult) : State :=
  let s := s.mapAxis .windlass fun x => { x with phase := .stopping, last := last, startTime := none }
  ({ s with wl := { s.wl with stall := none } } : State).formDuty

/-- A hydraulic axis enters STOPPING (R143, R150): the pump contactor opens, lead, start time and travel timers stop and
the valve lag runs; a lag of 0 brings IDLE at the event. -/
def State.stopHyd (s : State) (h : Hyd) (last : LastResult) : State :=
  let a := hydAxis h
  let lag := s.axisField a AxisTable.lag
  let s := s.setPump false
  let s := s.mapAxis a fun x =>
    { x with phase := .stopping, last := last, travel := none, startTime := none, lead := none, lag := some lag }
  if lag = 0 then s.enterIdle a last else s

/-- An entry into STOPPING from RUNNING with the last result of its cause (R143). -/
def State.enterStopping (s : State) (a : Axis) (last : LastResult) : State :=
  match axisHyd a with
  | none => s.stopWindlass last
  | some h => s.stopHyd h last

/-! ### RUNNING -/

/-- The travel timeout of a motion, ms (R150). -/
def State.travelTime (s : State) (m : Motion) : Nat :=
  let j := match m with
    | .pDown => 1
    | .hClose => 1
    | _ => 0
  s.axisField m.axis (AxisTable.travel j) * 1000

/-- The entry actions of R142 that every axis shares: the window timer stops, the start time runs (0 expires at the
entry), and the axis's overrides are pushed. -/
def State.beginRun (s : State) (a : Axis) : State :=
  let t := s.axisField a AxisTable.startTime
  let s := s.mapAxis a fun x =>
    { x with phase := .running, window := none, startTime := if t = 0 then none else some t }
  let s := if t = 0 then s.switchToRun a else s
  (s.pushAxisOverride a 0).pushAxisOverride a 1

/-- The hydraulic run begins: the valve of the direction opens, valve lead and travel timeout run, and a lead of 0
closes the pump contactor at the entry (R150). -/
def State.beginHydRun (s : State) (h : Hyd) : State :=
  let a := hydAxis h
  match (s.axis a).dir with
  | none => s
  | some m =>
    let lead := s.axisField a AxisTable.lead
    let s := s.mapAxis a fun x =>
      { x with lead := if lead = 0 then none else some lead, travel := some (s.travelTime m) }
    let s := { s with out := s.out.setValve m true }
    if lead = 0 then s.setPump true else s

/-- An entry of a hydraulic axis into RUNNING; after the entry actions a standing conflict faults it, and a target whose
sensor stands active is reached (R142, R148, R149). -/
def State.runHyd (s : State) (h : Hyd) : State :=
  let a := hydAxis h
  let s := (s.beginRun a).beginHydRun h
  if s.conflict h then s.enterFaulted a .sensor
  else
    match (s.axis a).target with
    | none => s
    | some t => if s.input (targetSensor t) then s.stopHyd h .reached else s

/-- An entry of the windlass into RUNNING: ramp-step and stall timers start; a target already reached ends the run before
any duty is applied (R159, R161, R162). -/
def State.runWindlass (s : State) : State :=
  let s := s.beginRun .windlass
  let s := { s with
    wl := { s.wl with stall := some (s.axisField .windlass AxisTable.stallTime), ramp := some 10 } }
  if s.windlassReached s.wl.mode s.wl.payTarget then s.stopWindlass .reached else s.formDuty

/-- A reversal pause stands against the windlass's direction (R165). -/
def State.pauseStands (s : State) : Bool :=
  s.wl.pause.isSome && s.wl.lastDir != s.axes.ax.windlass.dir && s.wl.lastDir.isSome

/-- A STARTING axis that lacks nothing enters RUNNING (R140, R141, R165). -/
def State.tryRun (s : State) (a : Axis) : State :=
  let x := s.axis a
  if x.phase = .starting ∧ x.admitted = true then
    match axisHyd a with
    | none => if s.pauseStands then s else s.runWindlass
    | some h => if s.holdsPump h then s.runHyd h else s
  else s

/-! ### STARTING -/

/-- The last result of a STARTING that a window ends (R141, R165). -/
def State.windowResult (s : State) (a : Axis) : LastResult :=
  if (s.axis a).admitted = false then .noBudget
  else match axisHyd a with
    | none => .busy
    | some _ => .noPump

/-- A hydraulic axis requests the pump and joins the tail of the list (R151). -/
def State.requestPump (s : State) (a : Axis) : State :=
  match axisHyd a with
  | none => s
  | some h =>
    if s.axes.pumpList.contains h then s
    else { s with axes := { s.axes with pumpList := s.axes.pumpList ++ [h] } }

/-- The axis joins the tail of the waiter list and the evaluation this starts is made (R121). -/
def State.requestAdmission (s : State) (a : Axis) : State :=
  let w := if s.budget.waiters.contains a then s.budget.waiters else s.budget.waiters ++ [a]
  State.evalHandOn { s with budget := { s.budget with waiters := w, evalDue := true } }

/-- An entry into STARTING for a motion toward a target (R140), RUNNING at the same event where nothing lacks. A start
window of 0 ends a STARTING that lacks something at once. -/
def State.enterStarting (s : State) (a : Axis) (m : Motion) (t : Option Target) : State :=
  let w := s.axisField a AxisTable.window
  let s := s.mapAxis a fun x => { x with phase := .starting, dir := some m, target := t, admitted := false }
  let s := (s.requestAdmission a).requestPump a
  let s := (s.mapAxis a fun x => { x with window := some w }).tryRun a
  if (s.axis a).phase = .starting ∧ w = 0 then s.enterIdle a (s.windowResult a) else s

/-- Every axis that lacks nothing enters RUNNING, and the budget unit evaluates for what the entries change. -/
def State.settleRound (s : State) : State :=
  State.evalHandOn (((s.tryRun .windlass).tryRun .platform).tryRun .hatch)

/-- The consequences of an event among axes, pump and budget, until nothing more follows. Each round that changes
anything takes an axis out of STARTING, and no event returns it there, so four rounds suffice. Each evaluation hands its
results on as it ends (R119). What an entry into RUNNING pushes comes after the releases of the event (log entry 38). -/
def State.settle (s : State) : State :=
  s.evalHandOn.settleRound.settleRound.settleRound.settleRound

/-- Every axis is IDLE (R73, R80). -/
def State.allIdle (s : State) : Bool :=
  s.axes.ax.windlass.phase == .idle && s.axes.ax.platform.phase == .idle && s.axes.ax.hatch.phase == .idle

end Sys2Proof.Machine
end

