-- ==== Sys2Proof/Machine/PermitOps.lean ====
section
/-! DEFINITION. The permit unit: subjects and their values, tests, evaluations, and what the axis controller does at each
(spec/08). -/

namespace Sys2Proof.Machine

/-- The debounced input an input code names (spec/12, 12.5). -/
def permitInput : Nat → Option (Fin 13)
  | 0 => some 9
  | 1 => some 10
  | 2 => some 11
  | 3 => some 12
  | 4 => some footUpInput
  | 5 => some footDownInput
  | 6 => some homeInput
  | _ => none

/-- The value of a WATCH subject: `w` bytes of a FRESH slot's payload from the offset on, or none (R128). -/
def watchValue (slot : Slot) (offset w : Nat) : Option Nat :=
  if slot.phase = .fresh ∧ offset + w ≤ slot.payload.length then some (beNat ((slot.payload.drop offset).take w)) else none

/-- The value of an entry's subject, or none (R128, R129). -/
def State.permitValue (s : State) (e : Fin 24) : Option Nat :=
  let n := s.permitField e PermitTable.subject
  match s.permitField e PermitTable.kind with
  | 0 => if h : n < 32 then
      watchValue s.watch[(⟨n, h⟩ : Fin 32)] (s.permitField e PermitTable.offset) (s.permitField e PermitTable.width)
    else none
  | 1 => (permitInput n).map fun i => (s.input i).toNat
  | 2 => (axisOf n).map fun a => (s.axis a).pos.code
  | _ => none

/-- The tests (R130). -/
def permitTest (test v a b : Nat) : Bool :=
  match test with
  | 0 => v == a
  | 1 => v != a
  | 2 => decide (v < a)
  | 3 => decide (a < v)
  | 4 => decide (a ≤ v) && decide (v ≤ b)
  | 5 => decide (v < a) || decide (b < v)
  | 6 => v &&& a == a
  | 7 => v &&& a == 0
  | _ => false

/-- The entry is enabled (R126). -/
def State.permitOn (s : State) (e : Fin 24) : Bool := s.permitField e PermitTable.enabled != 0

/-- An entry's result by its evaluation: a disabled entry is TRUE (R127), a subject without a value gives the stale
result (R128), else the test decides (R130). -/
def State.permitResult (s : State) (e : Fin 24) : Bool :=
  if s.permitOn e then
    match s.permitValue e with
    | none => s.permitField e PermitTable.stale == 1
    | some v =>
      permitTest (s.permitField e PermitTable.test) v (s.permitField e PermitTable.a) (s.permitField e PermitTable.b)
  else true

/-- The entry gates the motion (R126). -/
def State.permitGates (s : State) (e : Fin 24) (m : Motion) : Bool :=
  (s.permitField e PermitTable.gated).testBit m.bit

/-- An enabled entry with result FALSE gates the motion, so its permit is FALSE (R132). -/
def State.motionBlocked (s : State) (r : Vector Bool 24) (m : Motion) : Bool :=
  (List.finRange 24).any fun e => s.permitOn e && s.permitGates e m && !r[e]

/-- An enabled entry with hold policy STOP and result FALSE gates the motion (R132). -/
def State.motionStopped (s : State) (r : Vector Bool 24) (m : Motion) : Bool :=
  (List.finRange 24).any fun e =>
    s.permitOn e && s.permitGates e m && s.permitField e PermitTable.hold == 1 && !r[e]

/-- The set of the motions that satisfy `p`. -/
def motionSet (p : Motion → Bool) : BitVec 6 :=
  allMotions.foldl (fun w m => if p m then w ||| BitVec.twoPow 6 m.bit.val else w) 0

/-- The motion stands in a set. -/
def inSet (w : BitVec 6) (m : Motion) : Bool := w.getLsb m.bit

/-- The permit of a motion is FALSE (R132). -/
def State.blocked (s : State) (m : Motion) : Bool := inSet s.permits.blocked m

/-- The named entries are recomputed and the sets formed from all 24 results (R131, R132). -/
def State.formPermits (s : State) (named : Fin 24 → Bool) : State :=
  let r := vmap (fun e x => if named e then s.permitResult e else x) s.permits.results
  { s with permits := { results := r, blocked := motionSet (s.motionBlocked r), stops := motionSet (s.motionStopped r) } }

/-- The axis controller takes the two sets for one axis (R133). -/
def State.permitStop (s : State) (a : Axis) : State :=
  let x := s.axis a
  match x.dir with
  | none => s
  | some m =>
    match x.phase with
    | .starting => if s.blocked m then s.enterIdle a .noPermit else s
    | .running => if inSet s.permits.stops m then s.enterStopping a .noPermit else s
    | _ => s

/-- An evaluation of the named entries, with what the axis controller does at it; an event that reaches no entry starts
none (R131 to R133). -/
def State.evalPermits (s : State) (named : Fin 24 → Bool) : State :=
  if (List.finRange 24).any named then
    let s := s.formPermits named
    ((s.permitStop .windlass).permitStop .platform).permitStop .hatch
  else s

/-- The entries whose subject is a watch slot in a set (R131). -/
def State.namesSlots (s : State) (slots : Fin 32 → Bool) (e : Fin 24) : Bool :=
  let n := s.permitField e PermitTable.subject
  s.permitField e PermitTable.kind == 0 && (if h : n < 32 then slots ⟨n, h⟩ else false)

/-- The entries whose subject is a debounced input (R131). -/
def State.namesInput (s : State) (i : Fin 13) (e : Fin 24) : Bool :=
  s.permitField e PermitTable.kind == 1 && permitInput (s.permitField e PermitTable.subject) == some i

/-- The entries whose subject is an axis's position (R131). -/
def State.namesAxis (s : State) (a : Axis) (e : Fin 24) : Bool :=
  s.permitField e PermitTable.kind == 2 && axisOf (s.permitField e PermitTable.subject) == some a

/-- An input change reaches both the permit unit and another reader. R134 leaves open which is taken first, so where the
change names an entry a free choice decides; both read the subject values as they stand after the change (R131). -/
def State.withPermits (s : State) (named : Fin 24 → Bool) (act : State → State) : State :=
  if (List.finRange 24).any named then
    let t := { s with choice := s.choice + 1 }
    if Config.permitFirst s.choice then act (t.evalPermits named) else (act t).evalPermits named
  else act s

end Sys2Proof.Machine
end

