-- ==== Sys2Proof/Machine/CommitOps.lean ====
section
/-! DEFINITION. The applied commit, and what follows every event: the consequences among the blocks, a pending commit whose
last axis has come to IDLE, and the publication of what changed (R66, R81, R83, R110, R136). -/

namespace Sys2Proof.Machine

/-- Every watch slot EMPTY (R50, R51). -/
def State.emptySlots (s : State) : State := { s with watch := Vector.replicate 32 Slot.initial }

/-- A commit's fitted fields: an axis that turns fitted takes the position its inputs give, and one that turns unfitted
the position of an axis that does not follow them (R148, R156), with last result NONE (R137). -/
def State.commitFitted (s : State) (was : Bool) (a : Axis) : State :=
  if s.fitted a = was then s
  else if s.fitted a then s.derivePosition a
  else (s.derivePosition a).mapAxis a fun x => { x with last := .none }

/-- The chain counter at a commit: no higher than the rode length in force (R158). -/
def State.commitCounter (s : State) : State :=
  { s with wl := { s.wl with counter := min s.wl.counter (s.axisField .windlass AxisTable.rode) } }

/-- Every publication entry a port holds takes the present topic and content (R66). -/
def State.refreshEntries (s : State) (p : Port) : State :=
  (List.finRange 7).foldl (fun s r => if (s.port p).holdsRecord r then s.queueRecord p r else s) s

/-- A spur that is no destination drops its publication entries; one in flight leaves at the end of its sending (R66). -/
def PortState.dropRecords (ps : PortState) : PortState :=
  { ps with
    own := (ps.own.filter fun e => e.record.isNone || e.flying).map fun e =>
      if e.record.isSome then { e with leaving := true } else e }

/-- The publication entries at an applied commit (R66). `wasSpur` is publish-to-spur before it. -/
def State.commitEntries (s : State) (wasSpur : Bool) : State :=
  let s := (s.refreshEntries .trunk).refreshEntries .spur
  if s.destination .spur then
    if wasSpur then s else s.queueAllOn .spur
  else (List.finRange 7).foldl (fun s r => s.setDue .spur r false) (s.mapPort .spur PortState.dropRecords)

/-- The active bank takes the clamped shadow bank, the pending mark falls, and the slots are emptied (R81, R51). -/
def State.takeShadow (s : State) : State :=
  State.emptySlots { s with store := { s.store with active := clampBank s.store.shadow, commitPending := false } }

/-- An applied commit (R81): the clamped shadow bank becomes the active bank, the slots are emptied, and every block takes
up the new content. -/
def State.applyCommit (s : State) : State :=
  let oldOn := fun c => s.channelOn c
  let wasSpur := s.destination .spur
  let fitW := s.fitted .windlass
  let fitP := s.fitted .platform
  let fitH := s.fitted .hatch
  let s := s.takeShadow.startRefresh
  let s := ((s.commitFitted fitW .windlass).commitFitted fitP .platform).commitFitted fitH .hatch
  let s := (s.commitCounter.evalPermits fun _ => true).wantEval.evalIfDue
  (s.commitOutputs oldOn).commitEntries wasSpur

/-- A pending commit is applied once every axis is IDLE (R83). -/
def State.commitIfReady (s : State) : State :=
  if s.store.commitPending && s.allIdle then s.applyCommit else s

/-- What follows an event: its consequences among axes, pump and budget, a pending commit that may now apply, and the
publication of the records that changed. -/
def State.finish (s : State) : State := s.settle.commitIfReady.publish

end Sys2Proof.Machine
end

