-- ==== Sys2Proof/Machine/PortOps.lean ====
section
/-! DEFINITION. The ports: fault score and port states, the line, the transmit arbiter, and forward queues (spec/01 and
spec/02, 2.5). -/

namespace Sys2Proof.Machine

/-! ### Fault score and port states -/

/-- Entry into DEGRADED (R10): the event is raised and the frames of class 2 and 3 leave the forward queue. -/
def State.enterDegraded (s : State) (p : Port) : State :=
  let ps := s.port p
  let kept := ps.fwd.filter fun f => decide (f.cls.toNat < 2)
  ((s.setPort p { ps with phase := .degraded, fwd := kept }).raise (degradedEvent p)).raiseIf
    (decide (kept.length < ps.fwd.length)) .forwardDrop

/-- Entry into ISOLATED (R11): both queues are flushed, the run count is 0 and the event is raised. -/
def State.enterIsolated (s : State) (p : Port) : State :=
  let ps := s.port p
  let s := s.setPort p { ps with phase := .isolated, fwd := [], own := [], run := 0 }
  ((s.raiseIf (!ps.fwd.isEmpty) .forwardDrop).raiseIf (ps.own.any fun e => e.record.isNone) .replyDropped).raise
    (isolatedEvent p)

/-- The state test that follows a change of the score (R10, R11). -/
def State.testScore (s : State) (p : Port) : State :=
  let ps := s.port p
  match ps.phase with
  | .active => if 96 ≤ ps.score then s.enterDegraded p else s
  | .degraded =>
    if 200 ≤ ps.score then s.enterIsolated p
    else if ps.score < 80 then s.setPort p { ps with phase := .active }
    else s
  | .isolated => s

/-- The score is raised, held at 255, unless the port is ISOLATED (R8). -/
def State.raiseScore (s : State) (p : Port) (n : Nat) : State :=
  if (s.port p).phase = .isolated then s
  else (s.mapPort p fun ps => { ps with score := min 255 (ps.score + n) }).testScore p

/-- The score is lowered by 1, held at 0, unless the port is ISOLATED (R8). -/
def State.lowerScore (s : State) (p : Port) : State :=
  if (s.port p).phase = .isolated then s
  else (s.mapPort p fun ps => { ps with score := ps.score - 1 }).testScore p

/-- A receive error: the score is raised by 1, or the recovery run count of an ISOLATED port is set to 0 (R8, R12). -/
def State.receiveError (s : State) (p : Port) : State :=
  if (s.port p).phase = .isolated then s.mapPort p fun ps => { ps with run := 0 } else s.raiseScore p 1

/-- A good frame received: the score is lowered by 1, or the recovery run count of an ISOLATED port is raised, and at 64
the port leaves ISOLATED for ACTIVE and every record is queued on it (R8, R12, R67). The records are queued before the
ZONE record's own change is published, so the other port may get a due mark alone (the model's choice, log entry 31). -/
def State.goodReception (s : State) (p : Port) : State :=
  let ps := s.port p
  if ps.phase = .isolated then
    if 64 ≤ ps.run + 1 then (s.setPort p { ps with phase := .active, score := 0, run := 0 }).queueAllOn p
    else s.setPort p { ps with run := ps.run + 1 }
  else s.lowerScore p

/-! ### The line and the transmit arbiter -/

/-- Counts of the 10 MHz base in a bit time: 500 and 250 kbit/s on the trunk, 125 and 62.5 kbit/s on the spur (R1). -/
def bitTime (p : Port) (fast : Bool) : Nat :=
  match p with
  | .trunk => if fast then 20 else 40
  | .spur => if fast then 80 else 160

/-- Counts in the gap of 10 recessive bit times (R2). -/
def State.gapTime (s : State) (p : Port) : Nat := 10 * bitTime p (s.port p).fast

/-- The port waits for the gap (R2). -/
def State.startGap (s : State) (p : Port) : State := s.mapPort p fun ps => { ps with line := .gap (s.gapTime p) }

/-- Another node's frame is under way on the segment of a port that is held off it (R17). -/
def Inputs.busy (i : Inputs) (p : Port) : Bool :=
  match p with
  | .trunk => i.busyTrunk
  | .spur => i.busySpur

/-- A frame begins or ends on the segment of a port that is held off it (R17). -/
def State.setBusy (s : State) (p : Port) (b : Bool) : State :=
  match p with
  | .trunk => { s with inp := { s.inp with busyTrunk := b } }
  | .spur => { s with inp := { s.inp with busySpur := b } }

/-- A frame of another node is under way on a port's segment: the port receives it or waits for its end, or, held off the
line, stands beside it (R3, R17). -/
def State.underWay (s : State) (p : Port) : Bool :=
  match (s.port p).line with
  | .held => s.inp.busy p
  | .receiving => true
  | .release left => left.isNone
  | _ => false

/-- The release of a held port (R17): it does not take up a frame under way, and first waits for a gap. -/
def State.releasePort (s : State) (p : Port) : State :=
  (s.mapPort p fun ps => { ps with line := .release (if s.inp.busy p then none else some (s.gapTime p)) }).setBusy p false

/-- What the transmit arbiter offers: the head with the lower key, and on equal keys that of the own queue; nothing while
the port is ISOLATED (R9). The flag says that the frame is the own queue's. -/
def PortState.offer (ps : PortState) : Option (Bool × Frame) :=
  if ps.phase = .isolated then none
  else match ps.fwd, ps.own with
    | [], [] => none
    | f :: _, [] => some (false, f)
    | [], e :: _ => some (true, e.frame)
    | f :: _, e :: _ => if f.key < e.frame.key then some (false, f) else some (true, e.frame)

/-- The head of the own queue is marked as in flight. -/
def flyHead : List OwnEntry → List OwnEntry
  | [] => []
  | e :: es => { e with flying := true } :: es

/-- An idle bus: the arbiter's offer, if there is one, is begun (R2, R9). -/
def PortState.beginSending (ps : PortState) : PortState :=
  match ps.offer with
  | none => { ps with line := .idle }
  | some (own, f) => { ps with line := .sending own f, own := if own then flyHead ps.own else ps.own }

/-- The port's sending ends without completion (R5, R6, R15): the frame keeps its place, the marks of its entry fall, and
an entry that was to leave leaves (R66). The port receives the rest of the frame on the line. -/
def PortState.endSending (ps : PortState) : PortState :=
  { ps with
    line := .receiving
    own := (ps.own.filter fun e => !(e.flying && e.leaving)).map fun e => { e with flying := false, changed := false } }

/-- A completion leaves the queue: the head of the forward queue, or the own entry in flight, unless it is a publication
entry marked as changed, which stays with its new content (R7, R15). -/
def PortState.complete (ps : PortState) (own : Bool) : PortState :=
  if own then
    { ps with
      own := (ps.own.filter fun e => !e.flying || (e.changed && !e.leaving)).map fun e =>
        { e with flying := false, changed := false } }
  else { ps with fwd := ps.fwd.tail }

/-! ### Forwarding into the target queue -/

/-- Most frames a forward queue holds (R13). -/
def fwdMax : Nat := 16

/-- The forward queue without its youngest frame of a class, passing over the frame in flight (R34). -/
def PortState.dropYoungest (ps : PortState) (c : Nat) : Option (List Frame) :=
  let isC := fun f : Frame => f.cls.toNat == c
  match ps.line, ps.fwd with
  | .sending false _, f :: fs => (eraseLast isC fs).map fun r => f :: r
  | _, fs => eraseLast isC fs

/-- The forward queue after the removal R34 makes for an urgent frame: of class 3, or else of class 2. -/
def PortState.makeRoom (ps : PortState) : Option (List Frame) :=
  match ps.dropYoungest 3 with
  | some l => some l
  | none => ps.dropYoungest 2

/-- A frame is offered to the forward queue of a port (R31 to R35). -/
def State.offerForward (s : State) (p : Port) (f : Frame) : State :=
  let ps := s.port p
  if ps.phase = .isolated then s.raise .forwardDrop
  else if ps.phase = .degraded ∧ 2 ≤ f.cls.toNat then s.raise .forwardDrop
  else if ps.fwd.length < fwdMax then s.setPort p { ps with fwd := ps.fwd ++ [f] }
  else if 2 ≤ f.cls.toNat then s.raise .forwardDrop
  else
    match ps.makeRoom with
    | none => s.raise .forwardDrop
    | some l => (s.setPort p { ps with fwd := l ++ [f] }).raise .forwardDrop

/-- R19: a port at a zone reset. -/
def State.resetPort (s : State) (p : Port) : State :=
  s.mapPort p fun ps =>
    { ps with
      line := match ps.line with
        | .sending _ _ => .gap (s.gapTime p)
        | l => l
      score := 0, phase := .active, run := 0, fwd := [], own := [] }

end Sys2Proof.Machine
end

