-- ==== Sys2Proof/Machine/Bus.lean ====
section
/-! DEFINITION. The bus commands: ARRIVAL with its judgement, capture, routing and delivery to intake, and the events of a
port's own sending (spec/01 to spec/03; R52 to R54). -/

namespace Sys2Proof.Machine

/-! ### The watch table -/

/-- A frame matches a slot (R41). -/
def State.matchesSlot (s : State) (f : Frame) (n : Fin 32) : Bool :=
  let filter := s.watchField n WatchTable.filter
  s.watchField n WatchTable.enabled != 0 && s.watchField n WatchTable.topic == f.topic.toNat &&
    (filter == 255 || filter == f.src.toNat) && f.src != 63

/-- A slot after a capture (R42). -/
def capturedSlot (f : Frame) : Slot :=
  { phase := .fresh, payload := f.payload, lastSource := f.src, age := 0, fresh := true, due := false }

/-- A notice of the watch table that names a set of slots: the permit unit evaluates the entries on them, and the budget
unit evaluates when one is the source slot (R47). Where one notice brings both, the permits are evaluated first, and an
axis that the budget's evaluation lets run enters RUNNING after it; R134 leaves that order open (the model's choice, log
entry 32). -/
def State.notice (s : State) (named : Fin 32 → Bool) : State :=
  let s := s.evalPermits (s.namesSlots named)
  match s.sourceSlot with
  | none => s
  | some n => if named n then s.wantEval else s

/-- Every slot the frame matches captures it at one capture, which sends one notice (R42, R43). -/
def State.capture (s : State) (f : Frame) : State :=
  let m := s.matchesSlot f
  if (List.finRange 32).any m then
    State.notice { s with watch := vmap (fun n x => if m n then capturedSlot f else x) s.watch } m
  else s

/-! ### Intake -/

/-- Most records the intake queue holds (R52). -/
def intakeMax : Nat := 8

/-- The class the intake queue is ordered by. -/
def Request.key (r : Request) : Nat := r.cls.toNat

def State.setIntake (s : State) (q : List Request) : State := { s with exe := { s.exe with intake := q } }

/-- A record is delivered to intake (R52, R53). -/
def State.deliver (s : State) (r : Request) : State :=
  let q := s.exe.intake
  if q.length < intakeMax then s.setIntake (insertByKey Request.key r q)
  else
    match q.getLast? with
    | none => s.answer r .busy []
    | some tail =>
      if r.key < tail.key then
        ((s.setIntake (insertByKey Request.key r q.dropLast)).answer tail .busy []).raise .intakeEvicted
      else s.answer r .busy []

/-! ### Routing -/

/-- The record of a frame (R27). -/
def requestOf (p : Port) (f : Frame) (broadcast : Bool) : Request :=
  { port := p, broadcast := broadcast, cls := f.cls, kind := f.kind, topic := f.topic, src := f.src,
    payload := f.payload }

/-- The accept field covers the arrival port (R23). -/
def acceptCovers (accept : Nat) (p : Port) : Bool :=
  match p with
  | .trunk => accept == 1 || accept == 3
  | .spur => accept == 2 || accept == 3

/-- A request may enter from its arrival port: by the accept field for a COMMAND (R23), from the trunk alone for a SETUP
(R25). -/
def State.mayEnter (s : State) (p : Port) (f : Frame) : Bool :=
  match f.kind with
  | .setup => p == .trunk
  | _ => acceptCovers (s.topicField f.topic TopicTable.accept) p

/-- The forwarding of a passing frame, or of the forwarding half of a broadcast request (R29, R30). -/
def State.forward (s : State) (p : Port) (f : Frame) : State :=
  let yes := match p with
    | .trunk => s.topicField f.topic TopicTable.down != 0
    | .spur => s.topicField f.topic TopicTable.up != 0
  if yes then s.offerForward (otherPort p) f else s

/-- The routing of a COMMAND or SETUP by its destination: addressed, broadcast or passing (R23 to R25, R28, R29). -/
def State.routeRequest (s : State) (p : Port) (f : Frame) : State :=
  if f.dst = some s.node then
    if s.mayEnter p f then s.deliver (requestOf p f false)
    else s.sendReply (requestOf p f false) .denied []
  else if f.dst = some 63 then
    (if s.mayEnter p f then s.deliver (requestOf p f true) else s).forward p f
  else s.forward p f

/-- The routing of a good frame (R20 to R30). -/
def State.route (s : State) (p : Port) (f : Frame) : State :=
  match f.kind with
  | .state => (s.capture f).forward p f
  | .reply => if f.dst = some s.node then s else s.forward p f
  | .command => s.routeRequest p f
  | .setup => s.routeRequest p f

/-! ### The commands -/

/-- The port can meet an arrival: it receives a frame, or its segment is idle, or in the gap that the command says has
passed, and the frame began with the arrival's command (log entry 7). -/
def Line.receives : Line → Bool
  | .receiving => true
  | .idle => true
  | .gap _ => true
  | _ => false

/-- The port is released from the hold and waits for its first gap (R17). -/
def Line.joining : Line → Bool
  | .release _ => true
  | _ => false

/-- ARRIVAL (R3): the frame is judged, the score changes, and a good frame is routed. A port that is released and has not
seen its first gap does not take up a frame: its end is not received and not counted, and the gap begins anew (R17). So
does a frame that ends beside a held port change nothing but what the release will find under way. The return from
ISOLATED that a 64th good frame brings comes before its routing, and a reply that the routing brings joins before the
changed records are published (the model's choices, log entry 31). The routing comes before a pending commit that the
frame's own capture lets be applied; R20 allows either order (the model's choice, log entry 39). -/
def execArrival (p : Port) (bits : List Bool) (s : State) : Host.Outcome State Fault Refusal :=
  if s.power ≠ .running then .next (s.setBusy p false)
  else if (s.port p).line.receives = true then
    let s := if overlong bits then s.mapPort p fun ps => { ps with line := .gap 0 } else s.startGap p
    match receive bits with
    | none => .next (s.receiveError p).finish
    | some f => .next ((s.goodReception p).route p f).finish
  else if (s.port p).line.joining = true then
    .next (s.mapPort p fun ps => { ps with line := .release (some (s.gapTime p)) })
  else .next s

/-- The segment may have become idle: it is idle, or in the gap that the command says has passed (R2, R17). -/
def Line.mayIdle : Line → Bool
  | .gap _ => true
  | .release _ => true
  | .idle => true
  | _ => false

/-- IDLE_BUS (R2, R9): the arbiter offers a head and the port begins to send it. While the port is held off the line, no
frame is then under way on its segment (R17). -/
def execIdleBus (p : Port) (s : State) : Host.Outcome State Fault Refusal :=
  if s.power ≠ .running then .next (s.setBusy p false)
  else if (s.port p).line.mayIdle = true then .next (s.mapPort p PortState.beginSending)
  else .next s

/-- The port has a frame in flight (R7). -/
def Line.inFlight : Line → Bool
  | .sending _ _ => true
  | _ => false

/-- LOST_ARBITRATION (R5). -/
def execLostArbitration (p : Port) (s : State) : Host.Outcome State Fault Refusal :=
  if (s.port p).line.inFlight then .next (s.mapPort p PortState.endSending) else .next s

/-- TRANSMIT_ERROR (R6): the frame keeps its place and the score is raised by 8. -/
def execTransmitError (p : Port) (s : State) : Host.Outcome State Fault Refusal :=
  if (s.port p).line.inFlight then .next ((s.mapPort p PortState.endSending).raiseScore p 8).finish else .next s

/-- COMPLETION (R7): the frame leaves its queue, the score is lowered, and the port waits for the gap. -/
def execCompletion (p : Port) (s : State) : Host.Outcome State Fault Refusal :=
  match (s.port p).line with
  | .sending own _ => .next (((s.mapPort p fun ps => ps.complete own).startGap p).lowerScore p).finish
  | _ => .next s

/-- The line once another node begins a frame: the port receives it where its segment was idle, and does not take it up
where the first gap after its release had not passed (R2, R17). -/
def Line.atStart : Line → Line
  | .gap _ => .receiving
  | .idle => .receiving
  | .release left => if left = some 0 then .receiving else .release none
  | l => l

/-- START_OF_FRAME (R2): another node begins, and the port receives its frame. Beside a held port the frame is under way,
and the release will not take it up (R17). -/
def execStartOfFrame (p : Port) (s : State) : Host.Outcome State Fault Refusal :=
  if s.power ≠ .running then .next (s.setBusy p true)
  else .next (s.mapPort p fun ps => { ps with line := ps.line.atStart })

/-- SLOT_EXPIRY (R46): the age of a FRESH slot reaches its limit and the slot turns STALE, with a notice. -/
def execSlotExpiry (n : Fin 32) (s : State) : Host.Outcome State Fault Refusal :=
  if s.power = .running ∧ s.watch[n].phase = .fresh then
    let limit := s.watchField n WatchTable.limit
    let s := { s with watch := vupdate s.watch n fun x => { x with phase := .stale, age := max limit x.age, due := false } }
    .next (s.notice fun m => m == n).finish
  else .next s

end Sys2Proof.Machine
end

