-- ==== Sys2Proof/Machine/Executor.lean ====
section
/-! DEFINITION. The executor: the taking of the head record, the commands of its own (UNKNOWN_VERB, READ_EVENTS,
PUBLISH_NOW), and the expiries of its publication timers (spec/04). -/

namespace Sys2Proof.Machine

/-- The taking of the head record where it is the record the command stands for: it leaves the intake queue and `act` is
carried out whole (R55). Where no such record stands at the head there is no such taking (log entry 5). The command
says that the step of the time base at which R55 has the record taken has come; the mark `takeDue` of that step is read by
the time base alone (the model's choice, log entry 7). -/
def State.take (s : State) (i : Instr) (act : Request → State → State) : State :=
  match s.exe.intake with
  | [] => s
  | r :: rest =>
    if s.power = .running ∧ takingOf r = i then
      act r { s with exe := { s.exe with intake := rest, takeDue := false } }
    else s

/-- The end of a taking: the consequences of the verb's work are published, the reply is composed, and a change the reply
itself brings is published (R55, R59; log entry 14). -/
def State.conclude (s : State) (r : Request) (res : Result) (data : List Byte) : State :=
  (s.finish.answer r res data).publish

/-- A taking whose verb answers a result code without data bytes. -/
def State.takeVerb (s : State) (i : Instr) (act : Request → State → State × Result) : State :=
  s.take i fun r t => (act r t).1.conclude r (act r t).2 []

/-- UNKNOWN_VERB (R56, R177): BAD_VERB, and no block changes. -/
def execUnknownVerb (s : State) : Host.Outcome State Fault Refusal :=
  .next (s.takeVerb .unknownVerb fun _ t => (t, .badVerb))

/-- READ_EVENTS (R70): the snapshot is sent, and its flags are cleared if the own queue takes the reply. A broadcast one
does nothing (R58). -/
def execReadEvents (s : State) : Host.Outcome State Fault Refusal :=
  .next (s.take .readEvents fun r t =>
    if r.broadcast then t
    else
      let w := t.exe.events
      let sent := t.sendReply r .ok (beBytes 2 w.toNat)
      if (t.port r.port).ownRefuses then sent.publish
      else State.publish { sent with exe := { sent.exe with events := sent.exe.events &&& ~~~w } })

/-- PUBLISH_NOW (R68): one record or all seven are queued, whatever their spacing timers. -/
def execPublishNow (s : State) : Host.Outcome State Fault Refusal :=
  .next (s.takeVerb .publishNow fun r t =>
    if r.hasArgs 1 then
      if h : r.arg 1 < 7 then
        let n : Fin 7 := ⟨r.arg 1, h⟩
        let t := t.queueRecord .trunk n
        (if t.destination .spur then t.queueRecord .spur n else t, .ok)
      else (t, .badArg)
    else (t.queueAll, .ok))

/-- The record is queued on a port whose due mark is set, and the mark is cleared (R64). -/
def State.queueDue (s : State) (r : Fin 7) (p : Port) : State :=
  if s.exe.pubs[r].due p then (s.queueRecord p r).setDue p r false else s

/-- SPACING_EXPIRY (R64). -/
def execSpacingExpiry (r : Fin 7) (s : State) : Host.Outcome State Fault Refusal :=
  if s.power = .running ∧ s.exe.pubs[r].spacing.isSome then
    let s := { s with exe := { s.exe with pubs := vupdate s.exe.pubs r fun x => { x with spacing := none } } }
    .next ((s.queueDue r .trunk).queueDue r .spur).publish
  else .next s

/-- REFRESH_EXPIRY (R65): every record is queued on every destination port and the timer restarts. -/
def execRefreshExpiry (s : State) : Host.Outcome State Fault Refusal :=
  if s.power = .running ∧ s.exe.refresh.isSome then .next s.queueAll.startRefresh.publish else .next s

end Sys2Proof.Machine
end

