-- ==== Sys2Proof/Machine/LightingVerbs.lean ====
section
/-! DEFINITION. The lighting commands: SCENE, GROUP_SET, ALL_OFF, OVR_PUSH, OVR_RELEASE (R97 to R105) and FADE_STEP
(R92). -/

namespace Sys2Proof.Machine

/-- One item of a scene (R99): skipped for a group that does not exist, skipped with the scene marked partial for a
locked group, else applied. -/
def State.sceneItem (s : State) (scene : Nat) (fade : Option Nat) (j : Nat) : State × Bool :=
  match groupOf (s.field .scene scene (SceneTable.itemGroup j)) with
  | none => (s, false)
  | some g =>
    if s.groups[g].locked then (s, true)
    else
      (s.baseCommand g (s.field .scene scene (SceneTable.itemLevel j))
        (fade.getD (s.field .scene scene (SceneTable.itemFade j))), false)

/-- The first `n` items of a scene applied in list order (R99); the flag says that one was skipped for a lock. -/
def State.sceneItems (s : State) (scene : Nat) (fade : Option Nat) : Nat → State × Bool
  | 0 => (s, false)
  | n + 1 =>
    let r := s.sceneItems scene fade n
    let q := r.1.sceneItem scene fade n
    (q.1, r.2 || q.2)

/-- The work of SCENE (R99). -/
def actScene (r : Request) (s : State) : State × Result :=
  if r.hasArgs 1 = false ∨ 47 < r.arg 1 then (s, .badArg)
  else
    let q := s.sceneItems (r.arg 1) (r.optFade 2) (s.field .scene (r.arg 1) SceneTable.count)
    (q.1, if q.2 then .partialDone else .ok)

/-- SCENE (R99). -/
def execScene (s : State) : Host.Outcome State Fault Refusal := .next (s.takeVerb .scene actScene)

/-- The work of GROUP_SET (R97). -/
def actGroupSet (r : Request) (s : State) : State × Result :=
  if r.hasArgs 3 = false then (s, .badArg)
  else
    match groupOf (r.arg 1) with
    | none => (s, .badArg)
    | some g =>
      if s.groups[g].locked then (s, .denied)
      else (s.baseCommand g (r.level 2) ((r.optFade 4).getD (s.transition g)), .ok)

/-- GROUP_SET (R97). -/
def execGroupSet (s : State) : Host.Outcome State Fault Refusal := .next (s.takeVerb .groupSet actGroupSet)

/-- The work of ALL_OFF (R100). -/
def actAllOff (r : Request) (s : State) : State × Result :=
  ({ s with
      groups := vmap (fun g x => if x.locked then x else baseCommand x 0 ((r.optFade 1).getD (s.transition g))) s.groups },
    .ok)

/-- ALL_OFF (R100). -/
def execAllOff (s : State) : Host.Outcome State Fault Refusal := .next (s.takeVerb .allOff actAllOff)

/-- The work of OVR_PUSH (R105). -/
def actOvrPush (r : Request) (s : State) : State × Result :=
  if r.hasArgs 6 = false then (s, .badArg)
  else
    match groupOf (r.arg 1) with
    | none => (s, .badArg)
    | some g =>
      if 15 < r.arg 2 then (s, .badArg)
      else
        let q := s.pushOverride g
          { source := r.arg 2, priority := min 7 (r.arg 3), level := r.level 4, lock := r.arg 6 != 0 }
        (q.1, if q.2 = .refused then .full else .ok)

/-- OVR_PUSH (R105). -/
def execOvrPush (s : State) : Host.Outcome State Fault Refusal := .next (s.takeVerb .ovrPush actOvrPush)

/-- The work of OVR_RELEASE (R105). -/
def actOvrRelease (r : Request) (s : State) : State × Result :=
  if r.hasArgs 2 = false then (s, .badArg)
  else
    match groupOf (r.arg 1) with
    | none => (s, .badArg)
    | some g => if 15 < r.arg 2 then (s, .badArg) else (s.releaseOverride g (r.arg 2), .ok)

/-- OVR_RELEASE (R105). -/
def execOvrRelease (s : State) : Host.Outcome State Fault Refusal := .next (s.takeVerb .ovrRelease actOvrRelease)

/-- FADE_STEP (R92): a step of the base or the output fade of a group. -/
def execFadeStep (g : Fin 12) (l : Layer) (s : State) : Host.Outcome State Fault Refusal :=
  if s.power = .running then .next (s.mapGroup g fun x => stepGroup x l).finish else .next s

end Sys2Proof.Machine
end

