-- ==== Sys2Proof/Machine/MotionVerbs.lean ====
section
/-! DEFINITION. The motion commands of the executor: start requests, stops, CLEAR_FAULT and CLEAR_ESTOP (spec/09), and the
windlass verbs (spec/10). -/

namespace Sys2Proof.Machine

/-! ### Start requests -/

/-- Checks 1 to 4 of a start request (R138): the refusal, or none where they pass. -/
def State.startBar (s : State) (a : Axis) : Option Result :=
  if s.fitted a = false then some .badArg
  else if s.axes.latch then some .faulted
  else if (s.axis a).phase = .faulted then some .faulted
  else if s.store.commitPending then some .busy
  else none

/-- The result a STARTING ended at once by a start window of 0 is answered with (R140, R165). -/
def LastResult.startResult : LastResult → Result
  | .noBudget => .noBudget
  | .noPump => .noPump
  | .busy => .busy
  | _ => .accepted

/-- Check 9: the axis enters STARTING, and the reply is ACCEPTED, or the result a start window of 0 gave (R138, R140). -/
def State.start (s : State) (a : Axis) (m : Motion) (t : Option Target) : State × Result :=
  let w := s.axisField a AxisTable.window
  let s := s.enterStarting a m t
  (s, if w = 0 ∧ (s.axis a).phase = .idle then (s.axis a).last.startResult else .accepted)

/-- The retarget of check 6 once the axis holds the new target (R139). -/
def State.retarget (s : State) (a : Axis) (reached : Bool) : State × Result :=
  if (s.axis a).phase = .running then
    if reached then (s.enterStopping a .reached, .ok) else (s, .ok)
  else if reached then (s.enterIdle a .reached, .ok) else (s, .accepted)

/-- How a start request's direction is resolved (R138). -/
inductive Resolved
  | noPosition
  /-- DECK at position DECK: no direction -/
  | here
  | way (m : Motion)
deriving DecidableEq, Repr

/-- The direction of a target from a position (R138). -/
def resolve (t : Target) (pos : Position) : Resolved :=
  match t with
  | .up => .way .pUp
  | .down => .way .pDown
  | .opened => .way .hOpen
  | .closed => .way .hClose
  | .deck =>
    match pos with
    | .up => .way .pDown
    | .down => .way .pUp
    | .deck => .here
    | _ => .noPosition

/-- Checks 5 to 9 of a hydraulic start request whose direction is resolved; `m` is none for DECK at DECK (R138). -/
def State.hydChecks (s : State) (h : Hyd) (t : Target) (m : Option Motion) : State × Result :=
  let a := hydAxis h
  let x := s.axis a
  let reached := x.pos == t.position
  match x.phase with
  | .stopping => (s, .busy)
  | .faulted => (s, .faulted)
  | .idle =>
    match m with
    | none => (s, .ok)
    | some d =>
      if reached then (s, .ok)
      else if s.blocked d then (s, .noPermit)
      else s.start a d (some t)
  | .starting | .running =>
    if m = none ∨ m = x.dir then (s.mapAxis a fun y => { y with target := some t }).retarget a reached
    else (s, .busy)

/-- A start request of a hydraulic axis (R138). -/
def State.hydStart (s : State) (h : Hyd) (t : Target) : State × Result :=
  match s.startBar (hydAxis h) with
  | some r => (s, r)
  | none =>
    match resolve t (s.axis (hydAxis h)).pos with
    | .noPosition => (s, .noPosition)
    | .here => s.hydChecks h t none
    | .way m => s.hydChecks h t (some m)

/-- The work of PF_MOVE (R138). -/
def actPfMove (r : Request) (s : State) : State × Result :=
  if r.hasArgs 1 = false then (s, .badArg)
  else
    match platformTargetOf (r.arg 1) with
    | none => (s, .badArg)
    | some t => s.hydStart .platform t

/-- PF_MOVE (R138). -/
def execPfMove (s : State) : Host.Outcome State Fault Refusal := .next (s.takeVerb .pfMove actPfMove)

/-- The work of HT_MOVE (R138). -/
def actHtMove (r : Request) (s : State) : State × Result :=
  if r.hasArgs 1 = false then (s, .badArg)
  else
    match hatchTargetOf (r.arg 1) with
    | none => (s, .badArg)
    | some t => s.hydStart .hatch t

/-- HT_MOVE (R138). -/
def execHtMove (s : State) : Host.Outcome State Fault Refusal := .next (s.takeVerb .htMove actHtMove)

/-! ### The windlass verbs -/

/-- The keep-alive timer starts over its interval (R159). -/
def State.startKeepAlive (s : State) (m : WindlassMode) : State :=
  { s with
    wl :=
      { s.wl with keepAlive := if m.manual then some (s.axisField .windlass AxisTable.keepAlive) else none } }

/-- The windlass takes a mode and its pay-out target, and a manual mode's keep-alive timer starts (R159). -/
def State.takeMode (s : State) (m : WindlassMode) (target : Nat) : State :=
  ({ s with wl := { s.wl with mode := m, payTarget := if m = .payoutTo then target else 0 } } : State).startKeepAlive m

/-- Checks 7 to 9 for an IDLE windlass: target reached, permit, and the entry into STARTING (R138, R159). -/
def State.windlassIdleStart (s : State) (m : WindlassMode) (d : Motion) (target : Nat) : State × Result :=
  if s.windlassReached m target then (s, .ok)
  else if s.blocked d then (s, .noPermit)
  else (s.takeMode m target).start .windlass d none

/-- A start request of the windlass for a mode (R138, R159); a command is refused BUSY during a foot run, after check 4
(R164), and a foot press is no retarget. -/
def State.windlassStart (s : State) (m : WindlassMode) (target : Nat) : State × Result :=
  match s.startBar .windlass, m.motion with
  | some r, _ => (s, r)
  | none, none => (s, .badArg)
  | none, some d =>
    if s.footRun && !m.foot then (s, .busy)
    else
      match s.axes.ax.windlass.phase with
      | .stopping => (s, .busy)
      | .faulted => (s, .faulted)
      | .idle => s.windlassIdleStart m d target
      | .starting | .running =>
        if s.axes.ax.windlass.dir = some d ∧ m.foot = false then
          (s.takeMode m target).retarget .windlass (s.windlassReached m target)
        else (s, .busy)

/-- The rode length in force (R62). -/
def State.rode (s : State) : Nat := s.axisField .windlass AxisTable.rode

/-- WL_HAUL (R159). -/
def execWlHaul (s : State) : Host.Outcome State Fault Refusal :=
  .next (s.takeVerb .wlHaul fun _ t => t.windlassStart .manualHaul 0)

/-- WL_PAYOUT (R159). -/
def execWlPayout (s : State) : Host.Outcome State Fault Refusal :=
  .next (s.takeVerb .wlPayout fun _ t => t.windlassStart .manualPayout 0)

/-- WL_HOME (R159). -/
def execWlHome (s : State) : Host.Outcome State Fault Refusal :=
  .next (s.takeVerb .wlHome fun _ t => t.windlassStart .haulHome 0)

/-- The work of WL_TO (R159): a target above the rode length is taken as the rode length (R62). -/
def actWlTo (r : Request) (s : State) : State × Result :=
  if r.hasArgs 3 = false then (s, .badArg) else s.windlassStart .payoutTo (min (r.arg3 1) s.rode)

/-- WL_TO (R159). -/
def execWlTo (s : State) : Host.Outcome State Fault Refusal := .next (s.takeVerb .wlTo actWlTo)

/-- After a change of the counter: a run in PAYOUT_TO whose target is reached or passed stops, and the duty target is
formed afresh (R160, R161). -/
def State.counterChanged (s : State) : State :=
  if s.axes.ax.windlass.phase = .running ∧ s.wl.mode = .payoutTo ∧ s.wl.payTarget ≤ s.wl.counter then
    s.stopWindlass .reached
  else s.formDuty

/-- The work of CHAIN_SET (R158, R164). -/
def actChainSet (r : Request) (s : State) : State × Result :=
  if r.hasArgs 3 = false then (s, .badArg)
  else if s.footRun then (s, .busy)
  else
    (({ s with wl := { s.wl with counter := min (r.arg3 1) s.rode, referenced := true } } : State).counterChanged, .ok)

/-- CHAIN_SET (R158). -/
def execChainSet (s : State) : Host.Outcome State Fault Refusal := .next (s.takeVerb .chainSet actChainSet)

/-! ### Stops -/

/-- A foot switch that is held is marked spent as its run is ended by a stop (R163). -/
def State.spendHeld (s : State) : State :=
  { s with
    wl :=
      { s.wl with
        spentUp := s.wl.spentUp || s.input footUpInput
        spentDown := s.wl.spentDown || s.input footDownInput } }

/-- AXIS_STOP or ALL_STOP reaches an axis (R145). -/
def State.stopAxis (s : State) (a : Axis) : State :=
  let s := if a = .windlass ∧ s.footRun = true then s.spendHeld else s
  match (s.axis a).phase with
  | .starting => s.enterIdle a .stopped
  | .running => s.enterStopping a .stopped
  | _ => s

/-- The work of AXIS_STOP (R145). -/
def actAxisStop (r : Request) (s : State) : State × Result :=
  if r.hasArgs 1 = false then (s, .badArg)
  else
    match axisOf (r.arg 1) with
    | none => (s, .badArg)
    | some a => (s.stopAxis a, .ok)

/-- AXIS_STOP (R145). -/
def execAxisStop (s : State) : Host.Outcome State Fault Refusal := .next (s.takeVerb .axisStop actAxisStop)

/-- ALL_STOP (R145). -/
def execAllStop (s : State) : Host.Outcome State Fault Refusal :=
  .next (s.takeVerb .allStop fun _ t => (((t.stopAxis .windlass).stopAxis .platform).stopAxis .hatch, .ok))

/-! ### CLEAR_FAULT and CLEAR_ESTOP -/

/-- The cause of a fault still stands (R147). -/
def State.causeStands (s : State) (a : Axis) : Bool :=
  match (s.axis a).cause with
  | .overcurrent => s.inp.overActive
  | .sensor =>
    match axisHyd a with
    | none => false
    | some h => s.conflict h
  | _ => false

/-- CLEAR_FAULT reaches an axis (R147). -/
def State.clearFault (s : State) (a : Axis) : State × Result :=
  if (s.axis a).phase = .faulted ∧ s.fitted a = true then
    if s.causeStands a then (s, .faulted) else (s.enterIdle a (s.axis a).last, .ok)
  else (s, .ok)

/-- The work of CLEAR_FAULT (R147). -/
def actClearFault (r : Request) (s : State) : State × Result :=
  if r.hasArgs 1 = false then (s, .badArg)
  else
    match axisOf (r.arg 1) with
    | none => (s, .badArg)
    | some a => s.clearFault a

/-- CLEAR_FAULT (R147). -/
def execClearFault (s : State) : Host.Outcome State Fault Refusal := .next (s.takeVerb .clearFault actClearFault)

/-- The work of CLEAR_ESTOP (R154). -/
def actClearEstop (_ : Request) (s : State) : State × Result :=
  if s.axes.latch then
    if s.inp.estopActive then (s, .faulted)
    else (({ s with axes := { s.axes with latch := false } } : State).releaseSource 19, .ok)
  else (s, .ok)

/-- CLEAR_ESTOP (R154). -/
def execClearEstop (s : State) : Host.Outcome State Fault Refusal := .next (s.takeVerb .clearEstop actClearEstop)

end Sys2Proof.Machine
end

