-- ==== Sys2Proof/Machine/InputEvents.lean ====
section
/-! DEFINITION. The changes of local inputs: end sensors, anchor home, gypsy, foot switches, general inputs, e-stop and
over-current (spec/09 to spec/11). A change command brings its pin and its debounced level to the new level; while the
start-up load runs, or without power, it moves the pin alone, since no change is handed on then (R175; log entry 8). -/

namespace Sys2Proof.Machine

/-- The pin of a debounced input alone moves; a pin is active when pulled low (spec/11, 11.5.1). -/
def State.setPin (s : State) (i : Fin 13) (active : Bool) : State :=
  { s with inp := { s.inp with debounced := vupdate s.inp.debounced i fun x => { x with pinHigh := !active } } }

/-- A change of a debounced input is taken: the debounced level takes the level of the pin, and the stability count is
set to 0 (R173). -/
def State.takeInput (s : State) (i : Fin 13) (active : Bool) : State :=
  { s with
    inp :=
      { s.inp with
        debounced := vupdate s.inp.debounced i fun _ => { pinHigh := !active, active := active, count := 0 } } }

/-- A change of several inputs at one sample is taken by those whose level it changes; an input that keeps its level keeps
its pin and its stability count (R173). -/
def State.takeChanges (s : State) (l : List (Fin 13 × Bool)) : State :=
  l.foldl (fun t p => if t.input p.1 = p.2 then t else t.takeInput p.1 p.2) s

/-- Levels for several inputs, each by `f`. -/
def State.eachInput (s : State) (f : State → Fin 13 → Bool → State) (l : List (Fin 13 × Bool)) : State :=
  l.foldl (fun t p => f t p.1 p.2) s

/-! ### End sensors -/

/-- The axis of a set of end sensors. -/
def sensorAxis : SensorLevels → Hyd
  | .platform _ _ _ => .platform
  | .hatch _ _ => .hatch

/-- The inputs of a set of end sensors with their new levels. -/
def sensorInputs : SensorLevels → List (Fin 13 × Bool)
  | .platform u d n => [(0, u), (1, d), (2, n)]
  | .hatch o c => [(3, o), (4, c)]

/-- A sensor of the axis stands active, so the axis's sensors have been seen (R148). -/
def State.markSeen (s : State) (h : Hyd) : State :=
  s.mapAxis (hydAxis h) fun x => { x with seen := x.seen || !(s.activeTargets h).isEmpty }

/-- The sensor of the axis's target became active: it was not at `before`, and is now (R149). -/
def State.becameReached (s before : State) (h : Hyd) : Bool :=
  match (s.axis (hydAxis h)).target with
  | none => false
  | some t => s.input (targetSensor t) && !before.input (targetSensor t)

/-- What the axis controller does at a change of an axis's sensors: a conflict faults a RUNNING or STOPPING axis, and a
RUNNING axis whose target's sensor became active stops (R148, R149). -/
def State.sensorAction (before : State) (h : Hyd) (s : State) : State :=
  let a := hydAxis h
  match (s.axis a).phase with
  | .running =>
    if s.conflict h then s.enterFaulted a .sensor
    else if s.becameReached before h then s.stopHyd h .reached
    else s
  | .stopping => if s.conflict h then s.enterFaulted a .sensor else s
  | _ => s

/-- A change of an axis's end sensors (R148): levels, the sensor-seen mark and the position are taken, and then the axis
controller and the permit unit act. -/
def State.sensorChange (s : State) (v : SensorLevels) : State :=
  let h := sensorAxis v
  let a := hydAxis h
  let t := ((s.takeChanges (sensorInputs v)).markSeen h).derivePosition a
  let named := fun e => (t.axis a).pos != (s.axis a).pos && t.namesAxis a e
  t.withPermits named (State.sensorAction s h)

/-- SENSOR_CHANGE (R148). -/
def execSensorChange (v : SensorLevels) (s : State) : Host.Outcome State Fault Refusal :=
  if s.power = .running then .next (s.sensorChange v).finish
  else .next (s.eachInput State.setPin (sensorInputs v))

/-! ### Anchor home and gypsy -/

/-- What the windlass drive does at a change of the anchor-home input (R158, R161): activation zeroes and references the
counter and ends a haul at once. -/
def State.homeAction (active : Bool) (s : State) : State :=
  if active then
    let s := { s with wl := { s.wl with counter := 0, referenced := true } }
    let x := s.axes.ax.windlass
    if x.dir = some .wHaul ∧ x.phase = .running then s.enterIdle .windlass .reached
    else if x.dir = some .wHaul ∧ x.phase = .stopping then s.enterIdle .windlass x.last
    else s.formDuty
  else s

/-- A change of the anchor-home input (R156, R158). -/
def State.homeChange (s : State) (active : Bool) : State :=
  let t := (s.takeInput homeInput active).derivePosition .windlass
  let named := fun e =>
    t.namesInput homeInput e || ((t.axis .windlass).pos != (s.axis .windlass).pos && t.namesAxis .windlass e)
  t.withPermits named (State.homeAction active)

/-- HOME_INPUT_CHANGE (R158). -/
def execHomeInputChange (active : Bool) (s : State) : Host.Outcome State Fault Refusal :=
  if s.power = .running then
    if s.input homeInput = active then .next s else .next (s.homeChange active).finish
  else .next (s.setPin homeInput active)

/-- The chain counter after a gypsy pulse (R157). A pulse that comes after the home activation that ended a haul meets an
IDLE windlass and counts as chain going out by the table of R157, where R158 calls it a hauling pulse that leaves the
counter at 0 (the model follows R157's table: log entry 33). -/
def State.pulseCounter (s : State) : Nat :=
  let p := s.axisField .windlass AxisTable.pocket
  if s.ramping ∧ s.axes.ax.windlass.dir = some .wHaul then s.wl.counter - p
  else min (s.wl.counter + p) (s.axisField .windlass AxisTable.rode)

/-- The stall timer restarts at a pulse, where it runs (R162). -/
def State.restartStall (s : State) : State :=
  { s with
    wl := { s.wl with stall := s.wl.stall.map fun _ => s.axisField .windlass AxisTable.stallTime } }

/-- What the windlass drive does at a gypsy pulse (R157). -/
def State.pulseAction (s : State) : State :=
  let n := s.pulseCounter
  let s := s.restartStall
  if n = s.wl.counter then s else ({ s with wl := { s.wl with counter := n } } : State).counterChanged

/-- GYPSY_PULSE (R157): a debounced change of the gypsy input to active. -/
def execGypsyPulse (s : State) : Host.Outcome State Fault Refusal :=
  if s.power = .running then .next (s.takeInput gypsyInput true).pulseAction.finish
  else .next (s.setPin gypsyInput true)

/-! ### Foot switches -/

/-- The inputs a foot switch event names. -/
def feetInputs : Feet → List (Fin 13)
  | .up => [footUpInput]
  | .down => [footDownInput]
  | .both => [footUpInput, footDownInput]

/-- The spent mark of a switch is set. -/
def State.spend (s : State) (f : Feet) : State :=
  match f with
  | .up => { s with wl := { s.wl with spentUp := true } }
  | .down => { s with wl := { s.wl with spentDown := true } }
  | .both => { s with wl := { s.wl with spentUp := true, spentDown := true } }

/-- The spent mark of a switch is cleared. -/
def State.unspend (s : State) (f : Feet) : State :=
  match f with
  | .up => { s with wl := { s.wl with spentUp := false } }
  | .down => { s with wl := { s.wl with spentDown := false } }
  | .both => { s with wl := { s.wl with spentUp := false, spentDown := false } }

/-- The spent mark of a switch. -/
def State.spent (s : State) (f : Feet) : Bool :=
  match f with
  | .up => s.wl.spentUp
  | .down => s.wl.spentDown
  | .both => s.wl.spentUp || s.wl.spentDown

/-- The foot run in progress is ended: STOPPING from RUNNING, IDLE from STARTING, with RELEASED (R163). -/
def State.endFootRun (s : State) : State :=
  if s.footRun then
    match s.axes.ax.windlass.phase with
    | .starting => s.enterIdle .windlass .released
    | .running => s.stopWindlass .released
    | _ => s
  else s

/-- The mode of a foot run (R159). -/
def feetMode : Feet → WindlassMode
  | .up => .footHaul
  | .down => .footPayout
  | .both => .none

/-- A press ends a command run that is STARTING or RUNNING, with STOPPED (R164). -/
def State.endCommandRun (s : State) : State :=
  match s.axes.ax.windlass.phase with
  | .starting => s.enterIdle .windlass .stopped
  | .running => s.stopWindlass .stopped
  | _ => s

/-- A command run is STARTING or RUNNING (R164). -/
def State.commandRun (s : State) : Bool :=
  !s.wl.mode.foot && (s.axes.ax.windlass.phase == .starting || s.axes.ax.windlass.phase == .running)

/-- A press is a start request; a refusal at a check marks the switch spent (R163). -/
def State.footStart (s : State) (f : Feet) : State :=
  let barred := s.startBar .windlass != none
  let q := s.windlassStart (feetMode f) 0
  let refused := barred || q.2 == .busy && s.axes.ax.windlass.phase != .idle ||
    q.2 == .noPermit || q.2 == .faulted
  if refused then q.1.spend f else q.1

/-- What the windlass drive does as one switch turns pressed (R163, R164): with the other held it ends a foot run and
spends both; alone and not spent it is a press. -/
def State.pressAction (f : Feet) (otherHeld : Bool) (s : State) : State :=
  if otherHeld then s.endFootRun.spend .both
  else if s.spent f then s
  else if s.commandRun then s.endCommandRun.spend f
  else s.footStart f

/-- What the windlass drive does at a press of one or both switches; two turning pressed at one sample make no press and
are both spent (R173). -/
def State.pressed (f : Feet) (s : State) : State :=
  match f with
  | .up => s.pressAction .up (s.input footDownInput)
  | .down => s.pressAction .down (s.input footUpInput)
  | .both => s.spend .both

/-- The entries an event of the foot switches names. -/
def State.namesFeet (s : State) (f : Feet) (e : Fin 24) : Bool := (feetInputs f).any fun i => s.namesInput i e

/-- FOOT_PRESS (R163). -/
def execFootPress (f : Feet) (s : State) : Host.Outcome State Fault Refusal :=
  if s.power = .running then
    if (feetInputs f).any s.input then .next s
    else
      let t := s.eachInput State.takeInput ((feetInputs f).map fun i => (i, true))
      .next (t.withPermits (t.namesFeet f) (State.pressed f)).finish
  else .next (s.eachInput State.setPin ((feetInputs f).map fun i => (i, true)))

/-- The foot run in progress is the run of a released switch (R163). -/
def State.runOf (s : State) (f : Feet) : Bool :=
  match f with
  | .up => s.wl.mode == .footHaul
  | .down => s.wl.mode == .footPayout
  | .both => s.wl.mode.foot

/-- What the windlass drive does at a release: the spent marks fall, and the run of a released switch ends (R163). -/
def State.released (f : Feet) (s : State) : State :=
  let s := s.unspend f
  if s.runOf f then s.endFootRun else s

/-- FOOT_RELEASE (R163). -/
def execFootRelease (f : Feet) (s : State) : Host.Outcome State Fault Refusal :=
  if s.power = .running then
    if (feetInputs f).any fun i => !s.input i then .next s
    else
      let t := s.eachInput State.takeInput ((feetInputs f).map fun i => (i, false))
      .next (t.withPermits (t.namesFeet f) (State.released f)).finish
  else .next (s.eachInput State.setPin ((feetInputs f).map fun i => (i, false)))

/-! ### General inputs -/

/-- GENERAL_INPUT_CHANGE (R131). -/
def execGeneralInputChange (n : Fin 4) (active : Bool) (s : State) : Host.Outcome State Fault Refusal :=
  if s.power = .running then
    let t := s.takeInput (generalInput n) active
    .next (t.evalPermits (t.namesInput (generalInput n))).finish
  else .next (s.setPin (generalInput n) active)

/-! ### E-stop and over-current -/

/-- An e-stop pin level judged at a polarity code: ACTIVE_HIGH 0, ACTIVE_LOW 1 (R174). -/
def estopJudge (polarity : Nat) (high : Bool) : Bool := if polarity = 0 then high else !high

/-- The level at which the e-stop pin is active or inactive under a polarity code. -/
def estopLevel (polarity : Nat) (active : Bool) : Bool := if polarity = 0 then active else !active

/-- The e-stop polarity that the running part judges by, or that the start-up load will bring. -/
def State.estopPolarity (s : State) : Nat :=
  if s.power = .running then s.zone Zone.estopPolarity
  else if s.store.marker then (bankRead s.store.image (bankAddr .zone 0 20)).toNat
  else 1

/-- The e-stop input takes a level that is handed to the axis controller (R174). -/
def State.setEstop (s : State) (active : Bool) : State :=
  { s with
    inp :=
      { s.inp with
        estopHigh := estopLevel s.estopPolarity active, estopSample := active, estopActive := active } }

/-- The e-stop pin alone moves. -/
def State.setEstopPin (s : State) (active : Bool) : State :=
  { s with inp := { s.inp with estopHigh := estopLevel s.estopPolarity active } }

/-- A fitted axis that is STARTING, RUNNING or STOPPING is brought to IDLE (R153, step 1). -/
def State.estopAxis (s : State) (a : Axis) : State :=
  if s.fitted a then
    match (s.axis a).phase with
    | .starting => s.enterIdle a .estop
    | .running => s.enterIdle a .estop
    | .stopping => s.enterIdle a .estop
    | _ => s
  else s

/-- A fitted IDLE axis takes last result ESTOP (R153, step 2). -/
def State.estopResult (s : State) (a : Axis) : State :=
  if s.fitted a = true ∧ (s.axis a).phase = .idle then s.mapAxis a fun x => { x with last := .estop } else s

/-- Waiter list, pump list and reservations are emptied (R153, step 3). -/
def State.estopRelease (s : State) : State :=
  let held := !s.budget.waiters.isEmpty || s.reserved != 0
  { s with
    budget :=
      { s.budget with waiters := [], res := ⟨.none, .none, .none⟩, evalDue := s.budget.evalDue || held }
    axes := { s.axes with pumpList := [] } }

/-- The latch is set and ESTOP raised (R153). -/
def State.setLatch (s : State) : State :=
  State.raise { s with axes := { s.axes with latch := true } } .estop

/-- Steps 2 and 4 of a latching: the last results and the override of source 19 (R153). -/
def State.estopMark (s : State) : State :=
  (((s.estopResult .windlass).estopResult .platform).estopResult .hatch).pushEstopOverride

/-- A latching of the e-stop (R153), steps 1 to 4 in order; a pending commit is applied after step 1 when no axis is left
outside IDLE. -/
def State.estopLatching (s : State) : State :=
  let s := s.setLatch
  let s := ((s.estopAxis .windlass).estopAxis .platform).estopAxis .hatch
  let s := s.commitIfReady
  s.estopRelease.estopMark

/-- ESTOP_ACTIVATION (R153): a latching, or with the latch already set the raise of ESTOP alone. The command is itself the
activation, so it acts so where the input stood active too (the model's choice, log entry 5). -/
def execEstopActivation (s : State) : Host.Outcome State Fault Refusal :=
  if s.power = .running then
    let t := s.setEstop true
    if t.axes.latch then .next (t.raise .estop).finish else .next t.estopLatching.finish
  else .next (s.setEstopPin true)

/-- ESTOP_FALL (R154): the input falls inactive and the latch stays. -/
def execEstopFall (s : State) : Host.Outcome State Fault Refusal :=
  if s.power = .running then .next (s.setEstop false) else .next (s.setEstopPin false)

/-- The over-current input takes a level. -/
def State.setOver (s : State) (active : Bool) : State :=
  { s with inp := { s.inp with overHigh := !active, overSample := active, overActive := active } }

/-- OVERCURRENT_CHANGE (R162): turning active while the bridge drives it faults the windlass. -/
def execOvercurrentChange (active : Bool) (s : State) : Host.Outcome State Fault Refusal :=
  if s.power = .running then
    let t := s.setOver active
    if active = true ∧ t.ramping = true ∧ 0 < t.wl.duty then .next (t.enterFaulted .windlass .overcurrent).finish
    else .next t
  else .next { s with inp := { s.inp with overHigh := !active } }

end Sys2Proof.Machine
end

