-- ==== Sys2Proof/Machine/TableVerbs.lean ====
section
/-! DEFINITION. The table commands: CURSOR, WRITE, READ, COMMIT, DISCARD, SAVE and its completion, and RESET (spec/05). -/

namespace Sys2Proof.Machine

/-! ### Cursor and assembly -/

/-- The index after a step of the cursor (R75). -/
def stepIndex (t : Table) (m : StepMode) (i : Nat) : Nat :=
  match m with
  | .inc => if i + 1 < t.entries then i + 1 else 0
  | .dec => if i = 0 then t.entries - 1 else i - 1
  | .hold => i

def Cursor.step (c : Cursor) : Cursor := { c with index := stepIndex c.table c.mode c.index }

/-- The write assembly is abandoned, with WRITE_ABANDONED where it held bytes (R77). -/
def State.abandon (s : State) : State :=
  State.raiseIf { s with exe := { s.exe with assembly := [] } } (!s.exe.assembly.isEmpty) .writeAbandoned

/-- The read offset is set to 0 and the latched copy dropped (R74, R76). -/
def State.dropLatch (s : State) : State := { s with exe := { s.exe with readOffset := 0, latched := [] } }

/-- A SAVE is in flight (R86). -/
def State.saving (s : State) : Bool := s.exe.saveCtx.isSome

/-- The work of CURSOR (R74). -/
def actCursor (r : Request) (s : State) : State × Result :=
  if r.hasArgs 4 = false then (s, .badArg)
  else
    match Table.ofCode (r.arg 1), StepMode.ofCode (r.arg 4) with
    | some t, some m =>
      if r.arg2 2 < t.entries then
        let s := s.abandon.dropLatch
        ({ s with exe := { s.exe with cursor := { table := t, index := r.arg2 2, mode := m } } }, .ok)
      else (s, .badArg)
    | _, _ => (s, .badArg)

/-- CURSOR (R74). -/
def execCursor (s : State) : Host.Outcome State Fault Refusal := .next (s.takeVerb .cursor actCursor)

/-! ### WRITE -/

/-- One data byte is appended to the assembly; a completed entry goes whole into the shadow bank and the cursor steps
(R76). -/
def State.writeByte (s : State) (b : Byte) : State :=
  let c := s.exe.cursor
  let e := s.exe.assembly ++ [b]
  if e.length < c.table.entryBytes then { s with exe := { s.exe with assembly := e } }
  else
    { s with
      exe := { s.exe with assembly := [], cursor := c.step }
      store := { s.store with shadow := bankSetEntry s.store.shadow c.table c.index e } }

/-- The data bytes of a WRITE: at most 6 (R61, R76). -/
def Request.data (r : Request) : List Byte := (r.payload.drop 1).take 6

/-- The work of WRITE: its result and data bytes (R76). -/
def actWrite (r : Request) (s : State) : State × Result × List Byte :=
  if r.hasArgs 1 = false then (s, .badArg, [])
  else if s.store.commitPending || s.saving then (s, .busy, [])
  else if s.exe.cursor.table = .watchLive then (s, .denied, [])
  else
    let s := r.data.foldl State.writeByte s.dropLatch
    (s, .ok, beBytes 2 s.exe.cursor.index ++ [BitVec.ofNat 8 s.exe.assembly.length])

/-- WRITE (R76). -/
def execWrite (s : State) : Host.Outcome State Fault Refusal :=
  .next (s.take .write fun r t => (actWrite r t).1.conclude r (actWrite r t).2.1 (actWrite r t).2.2)

/-! ### READ -/

def SlotPhase.code : SlotPhase → Nat
  | .empty => 0
  | .fresh => 1
  | .stale => 2

/-- The WATCH_LIVE entry of a slot; the whole entry of an EMPTY slot is 0 (R180; spec/12, 12.5). -/
def Slot.entry (x : Slot) : List Byte :=
  if x.phase = .empty then List.replicate 12 0
  else
    [BitVec.ofNat 8 (x.fresh.toNat * 128 + x.phase.code * 16 + x.payload.length), BitVec.ofNat 8 x.lastSource.toNat] ++
      beBytes 2 x.age ++ (x.payload ++ List.replicate (8 - x.payload.length) 0)

/-- The entry at the cursor is latched: of a bank, or the slot's live state with NEW then cleared in the slot (R48,
R78). -/
def State.latchEntry (s : State) (bank : Bank) : State :=
  let c := s.exe.cursor
  if c.table = .watchLive then
    if h : c.index < 32 then
      let n : Fin 32 := ⟨c.index, h⟩
      { s with
        exe := { s.exe with latched := s.watch[n].entry }
        watch := vupdate s.watch n fun x => { x with fresh := false } }
    else s
  else { s with exe := { s.exe with latched := bankEntry bank c.table c.index } }

/-- The next chunk of the latched copy is returned; the last one drops the copy and steps the cursor (R78). -/
def State.nextChunk (s : State) : State × List Byte :=
  let e := s.exe
  let chunk := (e.latched.drop (6 * e.readOffset)).take 6
  if e.cursor.table.entryBytes ≤ 6 * (e.readOffset + 1) then
    ({ s with exe := { e with readOffset := 0, latched := [], cursor := e.cursor.step } }, chunk)
  else ({ s with exe := { e with readOffset := e.readOffset + 1 } }, chunk)

/-- The work of READ: its result and the chunk (R78). -/
def actRead (r : Request) (s : State) : State × Result × List Byte :=
  if r.hasArgs 1 = false ∨ 1 < r.arg 1 then (s, .badArg, [])
  else if s.exe.assembly ≠ [] then (s, .busy, [])
  else
    let s := if s.exe.readOffset = 0 then
        s.latchEntry (if r.arg 1 = 0 then s.store.active else s.store.shadow)
      else s
    let q := s.nextChunk
    (q.1, .ok, q.2)

/-- READ (R78). -/
def execRead (s : State) : Host.Outcome State Fault Refusal :=
  .next (s.take .read fun r t => (actRead r t).1.conclude r (actRead r t).2.1 (actRead r t).2.2)

/-! ### COMMIT and DISCARD -/

/-- The work of COMMIT (R80). -/
def actCommit (_ : Request) (s : State) : State × Result :=
  if s.saving then (s, .busy)
  else if s.store.commitPending then (s, .accepted)
  else if s.allIdle then (s.abandon.applyCommit, .ok)
  else
    let s := s.abandon
    ({ s with store := { s.store with commitPending := true } }, .accepted)

/-- COMMIT (R80). -/
def execCommit (s : State) : Host.Outcome State Fault Refusal := .next (s.takeVerb .commit actCommit)

/-- The work of DISCARD (R84). -/
def actDiscard (_ : Request) (s : State) : State × Result :=
  let s := s.abandon
  if s.store.commitPending then ({ s with store := { s.store with commitPending := false } }, .ok)
  else ({ s with store := { s.store with shadow := s.store.active } }, .ok)

/-- DISCARD (R84). -/
def execDiscard (s : State) : Host.Outcome State Fault Refusal := .next (s.takeVerb .discard actDiscard)

/-! ### SAVE -/

/-- A save begins (R57, R85): the marker is erased, the active bank as it stands is the image being written, and the save
context is kept. -/
def State.beginSave (s : State) (r : Request) : State :=
  let s := s.abandon
  { s with
    store := { s.store with marker := false, image := s.store.active }
    exe := { s.exe with saveCtx := some r, saveAge := 0 } }

/-- SAVE (R85): refused BUSY, or begun without a reply. -/
def execSave (s : State) : Host.Outcome State Fault Refusal :=
  .next (s.take .save fun r t =>
    if t.store.commitPending || t.saving then t.conclude r .busy [] else (t.beginSave r).finish)

/-- SAVE_COMPLETION (R85): the marker is set and DONE is composed from the save context, which is discarded (R57). -/
def execSaveCompletion (s : State) : Host.Outcome State Fault Refusal :=
  match s.exe.saveCtx with
  | none => .next s
  | some r =>
    .next (State.conclude
      { s with store := { s.store with marker := true }, exe := { s.exe with saveCtx := none, saveAge := 0 } } r .done [])

/-! ### RESET -/

/-- The executor at a zone reset (R71, R72): STORE_EMPTY alone is raised, where the marker is absent. -/
def State.resetExecutor (s : State) : State :=
  State.raiseIf
    { s with
      exe :=
        { Executor.initial with
          saveCtx := s.exe.saveCtx
          saveAge := s.exe.saveAge
          pubs := vmap (fun _ x => { x with spacing := none, dueTrunk := false, dueSpur := false }) s.exe.pubs } }
    (!s.store.marker) .storeEmpty

/-- An axis at a zone reset: position and sensor-seen mark are kept (R155). -/
def AxisState.reset (x : AxisState) : AxisState := { AxisState.initial x.pos with seen := x.seen }

/-- The axes, the pump arbiter, the windlass drive and the motion outputs at a zone reset (R155, R166, R171, R172). -/
def State.resetAxes (s : State) : State :=
  let s := s.setDuty 0
  { s with
    axes :=
      { ax := ⟨s.axes.ax.windlass.reset, s.axes.ax.platform.reset, s.axes.ax.hatch.reset⟩, pumpList := []
        latch := s.axes.latch && s.inp.estopActive }
    wl :=
      { s.wl.stopTimers with
        mode := .none, payTarget := 0, dutyTarget := 0
        spentUp := s.wl.spentUp || s.input footUpInput
        spentDown := s.wl.spentDown || s.input footDownInput }
    out :=
      { s.out with platformUp := false, platformDown := false, hatchOpen := false, hatchClose := false, pump := false } }

/-- The groups at a zone reset; where the e-stop latch stands its override is pushed again, as the last lighting step
(R109). -/
def State.resetLighting (s : State) : State :=
  let s := { s with groups := vmap (fun g x => resetGroup x (s.transition g)) s.groups }
  if s.axes.latch then s.pushEstopOverride else s

/-- The budget unit at a zone reset, before the reset's own evaluation (R125). -/
def State.resetBudget (s : State) : State :=
  { s with
    budget :=
      { s.budget with
        source := .unknown, res := ⟨.none, .none, .none⟩, waiters := [], phase := .normal, evalDue := true } }

/-- The zone reset, up to the reply (R89). -/
def State.zoneReset (s : State) : State :=
  let s := { s with store := { s.store with commitPending := false } }
  let s := ((s.resetPort .trunk).resetPort .spur).resetExecutor.emptySlots
  let s := s.resetAxes.resetLighting.resetBudget
  (s.evalPermits fun _ => true).evalIfDue.restartOutputs.startRefresh

/-- RESET (R89): refused BUSY during a save; else the reset is made, the reply is placed, and then the records are
queued (R67). -/
def execReset (s : State) : Host.Outcome State Fault Refusal :=
  .next (s.take .reset fun r t =>
    if t.saving then t.conclude r .busy []
    else ((t.zoneReset.answer r .ok []).holdContents.queueAll).publish)

end Sys2Proof.Machine
end

