-- ==== Sys2Proof/Machine/Power.lean ====
section
/-! DEFINITION. Power: POWER_ON, START_UP_LOAD_END and POWER_LOSS (spec/05, 5.8; spec/11, 11.5; R16 to R18, R175). -/

namespace Sys2Proof.Machine

/-! ### Power-on and power loss -/

/-- The node number of the straps: 63 is taken as 62 (R21, R175). -/
def nodeOfStraps (n : Node) : Node := if n = 63 then 62 else n

/-- The inputs with their pins as they stand and every debounced level unjudged (R175). -/
def Inputs.unjudged (i : Inputs) : Inputs :=
  { Inputs.initial with
    debounced := vmap (fun _ x => { pinHigh := x.pinHigh, active := false, count := 0 }) i.debounced
    estopHigh := i.estopHigh
    overHigh := i.overHigh }

/-- Every block at its power-on value. The non-volatile store and the input pins are kept, since power does not act on
them, as are the queue of commands and the count of free choices (R16, R18, R72, R125, R135, R155, R166, R175). A frame
of another node that is under way stays so on the line, beside the port that is now held off it (R17). -/
def State.boot (s : State) (power : Power) (node : Node) (trunkFast spurFast : Bool) : State :=
  { State.reset with
    pending := s.pending
    power := power
    choice := s.choice
    node := node
    trunk := PortState.initial trunkFast
    spur := PortState.initial spurFast
    store := { active := [], shadow := [], image := s.store.image, marker := s.store.marker, commitPending := false }
    inp := { s.inp.unjudged with busyTrunk := s.underWay .trunk, busySpur := s.underWay .spur } }

/-- POWER_ON (R175): the straps are read and the start-up load begins with the ports held (R17). -/
def execPowerOn (straps : Straps) (s : State) : Host.Outcome State Fault Refusal :=
  .next (s.boot .loading (nodeOfStraps straps.node) straps.trunkFast straps.spurFast)

/-- POWER_LOSS (R18): nothing but the non-volatile store is left. -/
def execPowerLoss (s : State) : Host.Outcome State Fault Refusal :=
  .next (s.boot .off s.node s.trunk.fast s.spur.fast)

/-! ### The end of the start-up load -/

/-- The banks after the load: the clamped image in both where the marker is set, else the default entries, with
STORE_EMPTY raised (R87, R88). -/
def State.loadBanks (s : State) : State :=
  if s.store.marker then
    let b := clampBank s.store.image
    { s with store := { s.store with active := b, shadow := b } }
  else State.raise { s with store := { s.store with active := [], shadow := [] } } .storeEmpty

/-- Every input takes its sampled level as its standing level (R175). -/
def State.judgeInputs (s : State) : State :=
  let e := estopJudge (s.zone Zone.estopPolarity) s.inp.estopHigh
  { s with
    inp :=
      { s.inp with
        debounced := vmap (fun _ x => { x with active := !x.pinHigh, count := 0 }) s.inp.debounced
        estopSample := e
        estopActive := e
        overSample := !s.inp.overHigh
        overActive := !s.inp.overHigh } }

/-- The readers of the standing levels: sensors are seen, positions derived, and a held foot switch is marked spent
(R148, R156, R166, R175). -/
def State.readStanding (s : State) : State :=
  let s := ((s.markSeen .platform).markSeen .hatch).spendHeld
  ((s.derivePosition .windlass).derivePosition .platform).derivePosition .hatch

/-- Every group is set from its power-up level (R108). -/
def State.powerUpGroups (s : State) : State :=
  { s with groups := Vector.ofFn fun g => LightGroup.initial (s.groupField g GroupTable.powerUp) }

/-- An e-stop input that stands active at the end of the load brings a latching (R155). -/
def State.latchStanding (s : State) : State := if s.inp.estopActive then s.setLatch.estopMark else s

/-- Both ports are released to their lines (R17). -/
def State.releasePorts (s : State) : State := (s.releasePort .trunk).releasePort .spur

/-- The end of the start-up load: the blocks take up the active bank from their power-on states, then the part runs: the ports
are released and the publication records queued (spec/05, 5.8; R17, R67, R72). -/
def State.endLoad (s : State) : State :=
  let s := State.loadBanks { s with loadAge := 0 }
  let s := s.judgeInputs.readStanding.powerUpGroups
  let s := (s.formPermits fun _ => true).wantEval.evalIfDue.restartOutputs
  let s : State := { s.latchStanding.settle with power := .running }
  s.releasePorts.startRefresh.holdContents.queueAll.publish

/-- START_UP_LOAD_END (R87). -/
def execStartUpLoadEnd (s : State) : Host.Outcome State Fault Refusal :=
  if s.power = .loading then .next s.endLoad else .next s

end Sys2Proof.Machine
end

