-- ==== Sys2Proof/Machine/Timers.lean ====
section
/-! DEFINITION. The expiries of the axes' and the windlass drive's timers, the ramp step, and the timed events of the output
stage (spec/09 to spec/11). An expiry acts where its timer runs: the command says that the timer has reached its limit
(log entry 7). -/

namespace Sys2Proof.Machine

/-- START_WINDOW_EXPIRY (R141, R165): a STARTING axis returns to IDLE with the result for what it still lacks. -/
def execStartWindowExpiry (a : Axis) (s : State) : Host.Outcome State Fault Refusal :=
  if (s.axis a).phase = .starting ∧ (s.axis a).window.isSome then .next (s.enterIdle a (s.windowResult a)).finish
  else .next s

/-- START_TIME_EXPIRY (R142): the reservation switches from START to RUN. -/
def execStartTimeExpiry (a : Axis) (s : State) : Host.Outcome State Fault Refusal :=
  if (s.axis a).phase = .running ∧ (s.axis a).startTime.isSome then
    .next ((s.mapAxis a fun x => { x with startTime := none }).switchToRun a).finish
  else .next s

/-- VALVE_LEAD_EXPIRY (R150): the pump contactor closes. -/
def execValveLeadExpiry (h : Hyd) (s : State) : Host.Outcome State Fault Refusal :=
  let a := hydAxis h
  if (s.axis a).phase = .running ∧ (s.axis a).lead.isSome then
    .next ((s.mapAxis a fun x => { x with lead := none }).setPump true)
  else .next s

/-- VALVE_LAG_EXPIRY (R150): the valve closes and the axis enters IDLE. -/
def execValveLagExpiry (h : Hyd) (s : State) : Host.Outcome State Fault Refusal :=
  let a := hydAxis h
  if (s.axis a).phase = .stopping ∧ (s.axis a).lag.isSome then .next (s.enterIdle a (s.axis a).last).finish
  else .next s

/-- TRAVEL_TIMEOUT_EXPIRY (R150): the axis enters FAULTED with cause TIMEOUT. -/
def execTravelTimeoutExpiry (h : Hyd) (s : State) : Host.Outcome State Fault Refusal :=
  let a := hydAxis h
  if (s.axis a).phase = .running ∧ (s.axis a).travel.isSome then .next (s.enterFaulted a .timeout).finish
  else .next s

/-- What a keep-alive expiry does (R161): a manual run stops with KEEPALIVE, a manual STARTING returns to IDLE; in any
other state the timer alone stops. -/
def State.keepAliveEnds (s : State) : State :=
  let s := { s with wl := { s.wl with keepAlive := none } }
  if s.wl.mode.manual then
    match s.axes.ax.windlass.phase with
    | .starting => s.enterIdle .windlass .keepAlive
    | .running => s.stopWindlass .keepAlive
    | _ => s
  else s

/-- KEEP_ALIVE_EXPIRY (R161). -/
def execKeepAliveExpiry (s : State) : Host.Outcome State Fault Refusal :=
  if s.wl.keepAlive.isSome then .next s.keepAliveEnds.finish else .next s

/-- STALL_EXPIRY (R162): a fault while the bridge drives, else the timer restarts. -/
def execStallExpiry (s : State) : Host.Outcome State Fault Refusal :=
  if s.axes.ax.windlass.phase = .running ∧ s.wl.stall.isSome then
    if 0 < s.wl.duty then .next (s.enterFaulted .windlass .stall).finish
    else .next { s with wl := { s.wl with stall := some (s.axisField .windlass AxisTable.stallTime) } }
  else .next s

/-- REVERSAL_PAUSE_EXPIRY (R165): the pause ends, and an admitted STARTING windlass enters RUNNING. -/
def execReversalPauseExpiry (s : State) : Host.Outcome State Fault Refusal :=
  if s.wl.pause.isSome then .next (State.finish { s with wl := { s.wl with pause := none } }) else .next s

/-- RAMP_STEP (R160): the applied duty moves toward the duty target; at 0 in STOPPING the stop completes. -/
def execRampStep (s : State) : Host.Outcome State Fault Refusal :=
  if s.ramping ∧ s.wl.ramp.isSome then .next (State.rampNow { s with wl := { s.wl with ramp := some 10 } }).finish
  else .next s

/-- BRIDGE_CYCLE_START (R170): a driving bridge starts a cycle with the applied duty. -/
def execBridgeCycleStart (s : State) : Host.Outcome State Fault Refusal :=
  if s.out.bridge.dir.isSome then .next s.bridgeCycleStart else .next s

/-- PERIOD_START (R167) of a PWM bank. -/
def execPeriodStart (b : Fin 3) (s : State) : Host.Outcome State Fault Refusal :=
  if s.power = .running then .next (s.periodStart b) else .next s

end Sys2Proof.Machine
end

