-- ==== Sys2Proof/Machine/Dispatch.lean ====
section
/-! DEFINITION. The one meaning of each command. -/

namespace Sys2Proof.Machine

def exec (i : Instr) (s : State) : Host.Outcome State Fault Refusal :=
  match i with
  | .powerOn straps => Sys2Proof.Machine.execPowerOn straps s
  | .startUpLoadEnd => Sys2Proof.Machine.execStartUpLoadEnd s
  | .powerLoss => Sys2Proof.Machine.execPowerLoss s
  | .arrival p bits => Sys2Proof.Machine.execArrival p bits s
  | .idleBus p => Sys2Proof.Machine.execIdleBus p s
  | .lostArbitration p => Sys2Proof.Machine.execLostArbitration p s
  | .transmitError p => Sys2Proof.Machine.execTransmitError p s
  | .completion p => Sys2Proof.Machine.execCompletion p s
  | .unknownVerb => Sys2Proof.Machine.execUnknownVerb s
  | .scene => Sys2Proof.Machine.execScene s
  | .groupSet => Sys2Proof.Machine.execGroupSet s
  | .allOff => Sys2Proof.Machine.execAllOff s
  | .ovrPush => Sys2Proof.Machine.execOvrPush s
  | .ovrRelease => Sys2Proof.Machine.execOvrRelease s
  | .wlHaul => Sys2Proof.Machine.execWlHaul s
  | .wlPayout => Sys2Proof.Machine.execWlPayout s
  | .wlHome => Sys2Proof.Machine.execWlHome s
  | .wlTo => Sys2Proof.Machine.execWlTo s
  | .chainSet => Sys2Proof.Machine.execChainSet s
  | .pfMove => Sys2Proof.Machine.execPfMove s
  | .htMove => Sys2Proof.Machine.execHtMove s
  | .axisStop => Sys2Proof.Machine.execAxisStop s
  | .allStop => Sys2Proof.Machine.execAllStop s
  | .clearFault => Sys2Proof.Machine.execClearFault s
  | .clearEstop => Sys2Proof.Machine.execClearEstop s
  | .cursor => Sys2Proof.Machine.execCursor s
  | .write => Sys2Proof.Machine.execWrite s
  | .read => Sys2Proof.Machine.execRead s
  | .commit => Sys2Proof.Machine.execCommit s
  | .discard => Sys2Proof.Machine.execDiscard s
  | .save => Sys2Proof.Machine.execSave s
  | .saveCompletion => Sys2Proof.Machine.execSaveCompletion s
  | .reset => Sys2Proof.Machine.execReset s
  | .readEvents => Sys2Proof.Machine.execReadEvents s
  | .publishNow => Sys2Proof.Machine.execPublishNow s
  | .spacingExpiry r => Sys2Proof.Machine.execSpacingExpiry r s
  | .refreshExpiry => Sys2Proof.Machine.execRefreshExpiry s
  | .slotExpiry n => Sys2Proof.Machine.execSlotExpiry n s
  | .fadeStep g l => Sys2Proof.Machine.execFadeStep g l s
  | .startWindowExpiry a => Sys2Proof.Machine.execStartWindowExpiry a s
  | .startTimeExpiry a => Sys2Proof.Machine.execStartTimeExpiry a s
  | .valveLeadExpiry h => Sys2Proof.Machine.execValveLeadExpiry h s
  | .valveLagExpiry h => Sys2Proof.Machine.execValveLagExpiry h s
  | .travelTimeoutExpiry h => Sys2Proof.Machine.execTravelTimeoutExpiry h s
  | .keepAliveExpiry => Sys2Proof.Machine.execKeepAliveExpiry s
  | .stallExpiry => Sys2Proof.Machine.execStallExpiry s
  | .reversalPauseExpiry => Sys2Proof.Machine.execReversalPauseExpiry s
  | .rampStep => Sys2Proof.Machine.execRampStep s
  | .bridgeCycleStart => Sys2Proof.Machine.execBridgeCycleStart s
  | .periodStart b => Sys2Proof.Machine.execPeriodStart b s
  | .sensorChange levels => Sys2Proof.Machine.execSensorChange levels s
  | .homeInputChange active => Sys2Proof.Machine.execHomeInputChange active s
  | .gypsyPulse => Sys2Proof.Machine.execGypsyPulse s
  | .footPress f => Sys2Proof.Machine.execFootPress f s
  | .footRelease f => Sys2Proof.Machine.execFootRelease f s
  | .generalInputChange n active => Sys2Proof.Machine.execGeneralInputChange n active s
  | .estopActivation => Sys2Proof.Machine.execEstopActivation s
  | .estopFall => Sys2Proof.Machine.execEstopFall s
  | .overcurrentChange active => Sys2Proof.Machine.execOvercurrentChange active s
  | .startOfFrame p => Sys2Proof.Machine.execStartOfFrame p s

end Sys2Proof.Machine
end

