-- ==== Sys2Proof/Machine/Clock.lean ====
section
/-! DEFINITION. The time base: what the part does while no command waits. One step on an empty queue either carries out
one of the events that stand due at this count of the 10 MHz base, or, where none does, lets one count pass (log
entry 6). Of several events that come together a free choice picks the next (log entry 2). -/

namespace Sys2Proof.Machine

/-! ### The events that stand due -/

/-- A command where a condition holds. -/
def dueIf (c : Bool) (i : Instr) : List Instr := if c then [i] else []

def Axis.hyds : List Hyd := [.platform, .hatch]

/-- The taking of the head record, at the step of the time base that calls for it (R55). -/
def State.dueTaking (s : State) : List Instr :=
  match s.exe.intake with
  | [] => []
  | r :: _ => dueIf s.exe.takeDue (takingOf r)

/-- Idle buses: a gap that has passed, or an idle segment with a frame to offer (R2). -/
def PortState.dueIdle (ps : PortState) : Bool :=
  match ps.line with
  | .gap n => n == 0
  | .release left => left == some 0
  | .idle => ps.offer.isSome
  | _ => false

/-- The fade steps of a group (R92). In RETURN the two fades of one base command step as one (R96). -/
def LightGroup.dueSteps (x : LightGroup) (g : Fin 12) : List Instr :=
  let at0 := fun f : Option Fade => f.any fun y => y.wait == 0
  let both := x.mode == .returning && x.baseFade.isSome && x.outFade.isSome
  dueIf (at0 x.baseFade) (.fadeStep g .base) ++ dueIf (at0 x.outFade && !both) (.fadeStep g .output)

/-- The expiries of an axis's timers (R141, R142, R150). -/
def State.dueAxis (s : State) (a : Axis) : List Instr :=
  let x := s.axis a
  dueIf (x.phase == .starting && timerDue x.window) (.startWindowExpiry a) ++
  dueIf (x.phase == .running && timerDue x.startTime) (.startTimeExpiry a) ++
  match axisHyd a with
  | none => []
  | some h =>
    dueIf (x.phase == .running && timerDue x.lead) (.valveLeadExpiry h) ++
    dueIf (x.phase == .stopping && timerDue x.lag) (.valveLagExpiry h) ++
    dueIf (x.phase == .running && timerDue x.travel) (.travelTimeoutExpiry h)

/-- The expiries of the windlass drive's timers (R160 to R162, R165) and the cycle start of a driving bridge (R170). -/
def State.dueWindlass (s : State) : List Instr :=
  dueIf (timerDue s.wl.keepAlive) .keepAliveExpiry ++
  dueIf (s.axes.ax.windlass.phase == .running && timerDue s.wl.stall) .stallExpiry ++
  dueIf (timerDue s.wl.pause) .reversalPauseExpiry ++
  dueIf (s.ramping && timerDue s.wl.ramp) .rampStep ++
  dueIf (s.out.bridge.dir.isSome && decide (s.bridgeCycle ≤ s.out.bridge.count)) .bridgeCycleStart

/-- The debounce time of an input in ms: 2 for the gypsy, else 20 (R173). -/
def debounceTime (i : Fin 13) : Nat := if i = gypsyInput then 2 else 20

/-- A change of an input stands to be taken: its count has reached the debounce time (R173). -/
def State.changing (s : State) (i : Fin 13) : Bool :=
  let x := s.inp.debounced[i]
  decide (debounceTime i ≤ x.count) && x.active == x.pinHigh

/-- The level an input has once the changes that stand to be taken are taken. -/
def State.newLevel (s : State) (i : Fin 13) : Bool := s.input i != s.changing i

/-- The changes of the end sensors, those of one axis together (R173). -/
def State.dueSensors (s : State) : List Instr :=
  dueIf (s.changing 0 || s.changing 1 || s.changing 2)
    (.sensorChange (.platform (s.newLevel 0) (s.newLevel 1) (s.newLevel 2))) ++
  dueIf (s.changing 3 || s.changing 4) (.sensorChange (.hatch (s.newLevel 3) (s.newLevel 4)))

/-- The foot switches that change to a level, as one event. -/
def feetOf (up down : Bool) : Option Feet :=
  match up, down with
  | true, true => some .both
  | true, false => some .up
  | false, true => some .down
  | false, false => none

/-- The change of the foot switches; at one sample a release is taken before a press (R173; log entry 18). -/
def State.dueFeet (s : State) : List Instr :=
  let off := fun i => s.changing i && s.input i
  let on := fun i => s.changing i && !s.input i
  match feetOf (off footUpInput) (off footDownInput) with
  | some f => [.footRelease f]
  | none =>
    match feetOf (on footUpInput) (on footDownInput) with
    | some f => [.footPress f]
    | none => []

/-- The changes of the inputs that stand to be handed on (R173, R174). -/
def State.dueInputs (s : State) : List Instr :=
  s.dueSensors ++
  dueIf (s.changing homeInput) (.homeInputChange (s.newLevel homeInput)) ++
  dueIf (s.changing gypsyInput && !s.input gypsyInput) .gypsyPulse ++
  s.dueFeet ++
  ((List.finRange 4).flatMap fun n =>
    dueIf (s.changing (generalInput n)) (.generalInputChange n (s.newLevel (generalInput n)))) ++
  dueIf (s.inp.estopSample && !s.inp.estopActive) .estopActivation ++
  dueIf (!s.inp.estopSample && s.inp.estopActive) .estopFall ++
  dueIf (s.inp.overSample != s.inp.overActive) (.overcurrentChange s.inp.overSample)

/-- The executor's events: the taking, the expiries of the publication timers, and the completion of a save. -/
def State.dueExecutor (s : State) : List Instr :=
  s.dueTaking ++
  ((List.finRange 7).flatMap fun r => dueIf (timerDue s.exe.pubs[r].spacing) (.spacingExpiry r)) ++
  dueIf (timerDue s.exe.refresh) .refreshExpiry ++
  dueIf (s.exe.saveCtx.isSome && decide (Config.saveMax ≤ s.exe.saveAge)) .saveCompletion

/-- The events that stand due at this count. -/
def State.due (s : State) : List Instr :=
  match s.power with
  | .off => []
  | .loading => dueIf (decide (Config.loadMax ≤ s.loadAge)) .startUpLoadEnd
  | .running =>
    s.dueExecutor ++
    ((List.finRange 32).flatMap fun n => dueIf (s.watch[n].due && s.watch[n].phase == .fresh) (.slotExpiry n)) ++
    ((List.finRange 12).flatMap fun g => s.groups[g].dueSteps g) ++
    allAxes.flatMap s.dueAxis ++
    s.dueWindlass ++
    ((List.finRange 3).flatMap fun b =>
      dueIf s.out.banks[b].due (.periodStart b)) ++
    s.dueInputs ++
    dueIf s.trunk.dueIdle (.idleBus .trunk) ++
    dueIf s.spur.dueIdle (.idleBus .spur)

/-! ### One count of the time base -/

/-- A gap counts down (R2); the first gap after the release does not while a frame is under way (R17). -/
def PortState.tick (ps : PortState) : PortState :=
  { ps with
    line := match ps.line with
      | .gap n => .gap (n - 1)
      | .release left => .release (tickTimer left)
      | l => l }

/-- A slot at a step of the 1 ms base (R45, R46): the step that brings the age of a FRESH slot to its limit leaves the
expiry due. -/
def Slot.tick (x : Slot) (limit : Nat) : Slot :=
  match x.phase with
  | .empty => x
  | .fresh => if limit ≤ x.age + 1 then { x with due := true } else { x with age := x.age + 1 }
  | .stale => { x with age := min 65535 (x.age + 1) }

def Fade.tick (f : Fade) : Fade := { f with wait := f.wait - 1 }

def LightGroup.tick (x : LightGroup) : LightGroup :=
  { x with baseFade := x.baseFade.map Fade.tick, outFade := x.outFade.map Fade.tick }

def AxisState.tick (x : AxisState) : AxisState :=
  { x with
    window := tickTimer x.window, startTime := tickTimer x.startTime, travel := tickTimer x.travel
    lead := tickTimer x.lead, lag := tickTimer x.lag }

def Windlass.tick (w : Windlass) : Windlass :=
  { w with
    keepAlive := tickTimer w.keepAlive, stall := tickTimer w.stall, pause := tickTimer w.pause
    ramp := tickTimer w.ramp }

/-- A sample of a debounced input (R173). A change of the gypsy to inactive is taken at the sample, since no reader is
handed it. -/
def DebouncedInput.sample (i : Fin 13) (x : DebouncedInput) : DebouncedInput :=
  if x.active ≠ x.pinHigh then { x with count := 0 }
  else if i = gypsyInput ∧ x.active = true ∧ debounceTime i ≤ x.count + 1 then { x with active := false, count := 0 }
  else { x with count := min (debounceTime i) (x.count + 1) }

/-- A sample of the inputs (R173, R174). -/
def State.sampleInputs (s : State) : Inputs :=
  { s.inp with
    debounced := vmap DebouncedInput.sample s.inp.debounced
    estopSample := estopJudge (s.zone Zone.estopPolarity) s.inp.estopHigh
    overSample := !s.inp.overHigh }

/-- The executor at a step of the 1 ms base: its timers count, a waiting record is to be taken, and a save goes on until
the millisecond at which a free choice, or its limit, ends it (R55, R64, R65, R85; log entry 4). -/
def Executor.tick (e : Executor) (choice : Nat) : Executor :=
  { e with
    takeDue := !e.intake.isEmpty
    pubs := vmap (fun _ x => { x with spacing := tickTimer x.spacing }) e.pubs
    refresh := tickTimer e.refresh
    saveAge :=
      match e.saveCtx with
      | none => e.saveAge
      | some _ => if Config.saveEnds choice then Config.saveMax else e.saveAge + 1 }

/-- A step of the 1 ms base. -/
def State.msStep (s : State) : State :=
  match s.power with
  | .off => s
  | .loading =>
    { s with loadAge := if Config.loadEnds s.choice then Config.loadMax else s.loadAge + 1, choice := s.choice + 1 }
  | .running =>
    { s with
      choice := if s.exe.saveCtx.isSome then s.choice + 1 else s.choice
      watch := vmap (fun n x => x.tick (s.watchField n WatchTable.limit)) s.watch
      exe := s.exe.tick s.choice
      groups := vmap (fun _ x => x.tick) s.groups
      axes :=
        { s.axes with
          ax := ⟨s.axes.ax.windlass.tick, s.axes.ax.platform.tick, s.axes.ax.hatch.tick⟩ }
      wl := s.wl.tick
      inp := s.sampleInputs }

/-- A count of the 1 MHz base at a PWM bank (R167): the counter never leaves its range, and the count that would take it
past one less than the period leaves the period start due, which returns it to 0. -/
def PwmBank.tick (x : PwmBank) : PwmBank :=
  if x.counter + 1 < x.period then { x with counter := x.counter + 1 } else { x with due := true }

/-- A count of the 1 MHz base at the PWM banks, every tenth count of the 10 MHz base (R167). -/
def State.countBanks (s : State) : State :=
  { s with out := { s.out with banks := vmap (fun _ x => x.tick) s.out.banks } }

/-- A count of the 10 MHz base at a driving bridge (R170). -/
def Bridge.tick (b : Bridge) : Bridge := if b.dir.isSome then { b with count := b.count + 1 } else b

/-- One count of the 10 MHz base passes (spec/11, 11.5.1). -/
def State.advance (s : State) : State :=
  let n := (s.clock + 1) % 10000
  let s :=
    { s with
      clock := n, trunk := s.trunk.tick, spur := s.spur.tick
      out := { s.out with bridge := s.out.bridge.tick } }
  let s := if n % 10 = 0 ∧ s.power = .running then s.countBanks else s
  if n = 0 then s.msStep else s

/-! ### A step without a command -/

/-- An event that stands due is carried out. It moves no pin, so the e-stop pin stands as it did. -/
def State.runDue (s : State) (i : Instr) : Host.Outcome State Fault Refusal :=
  match exec i s with
  | .next t => .next { t with inp := { t.inp with estopHigh := s.inp.estopHigh } }
  | .fault f => .fault f
  | .refused r => .refused r

/-- What the part does while no command waits. -/
def State.idle (s : State) : Host.Outcome State Fault Refusal :=
  if s.power = .off then .next s
  else
    match s.due with
    | [] => .next s.advance
    | [i] => s.runDue i
    | i :: l => State.runDue { s with choice := s.choice + 1 } ((i :: l).getD (Config.pick s.choice % (l.length + 1)) i)

end Sys2Proof.Machine
end

