-- ==== Sys2Proof/Safety.lean ====
section
/-! DEFINITION. The terms the claims use: the parts of the state and what it means that a command changes none but some
of them, the calm states in which no event has a consequence left, replies, and the invariants. -/

namespace Sys2Proof.Machine

/-! ### The parts of the state, for frames -/

/-- The parts of the state that a frame names. Together they hold every field of `State`. -/
inductive Part
  | pending | power | clock | choice | node
  /-- a port's rate, line, score, state and run count -/
  | link (p : Port)
  | fwd (p : Port)
  | own (p : Port)
  | watch
  | intake
  | saveCtx
  /-- cursor and write assembly -/
  | cursor
  /-- read offset and latched copy -/
  | latched
  | events | pubs | refresh
  | active | shadow
  /-- image and marker of the non-volatile store -/
  | image
  | commit
  | groups | requests | budget | permits
  | axis (a : Axis)
  | pumpList
  /-- the e-stop latch -/
  | latch
  | windlass
  /-- counters, loaded duties, polarities and holds of the lighting PWM -/
  | pwm
  | buffers
  /-- the four valves and the pump contactor -/
  | valves
  | bridge
  | inputs
deriving DecidableEq, Repr

/-- The link of a port. -/
def PortState.link (ps : PortState) : Bool × Line × Nat × PortPhase × Nat :=
  (ps.fast, ps.line, ps.score, ps.phase, ps.run)

/-- The lighting PWM of the output stage. -/
def Outputs.pwm (o : Outputs) : Vector PwmBank 3 × Vector Nat 24 × Vector Bool 24 × Vector Bool 24 :=
  (o.banks, o.loaded, o.activeHigh, o.hold)

/-- The on/off outputs of the output stage (R172). -/
def Outputs.valves (o : Outputs) : Bool × Bool × Bool × Bool × Bool :=
  (o.platformUp, o.platformDown, o.hatchOpen, o.hatchClose, o.pump)

/-- A part reads the same in two states. -/
def Part.same (s t : State) : Part → Prop
  | .pending => t.pending = s.pending
  | .power => t.power = s.power ∧ t.loadAge = s.loadAge
  | .clock => t.clock = s.clock
  | .choice => t.choice = s.choice
  | .node => t.node = s.node
  | .link p => (t.port p).link = (s.port p).link
  | .fwd p => (t.port p).fwd = (s.port p).fwd
  | .own p => (t.port p).own = (s.port p).own ∧ (t.port p).joins = (s.port p).joins
  | .watch => t.watch = s.watch
  | .intake => t.exe.intake = s.exe.intake ∧ t.exe.takeDue = s.exe.takeDue
  | .saveCtx => t.exe.saveCtx = s.exe.saveCtx ∧ t.exe.saveAge = s.exe.saveAge
  | .cursor => t.exe.cursor = s.exe.cursor ∧ t.exe.assembly = s.exe.assembly
  | .latched => t.exe.readOffset = s.exe.readOffset ∧ t.exe.latched = s.exe.latched
  | .events => t.exe.events = s.exe.events
  | .pubs => t.exe.pubs = s.exe.pubs
  | .refresh => t.exe.refresh = s.exe.refresh
  | .active => t.store.active = s.store.active
  | .shadow => t.store.shadow = s.store.shadow
  | .image => t.store.image = s.store.image ∧ t.store.marker = s.store.marker
  | .commit => t.store.commitPending = s.store.commitPending
  | .groups => t.groups = s.groups
  | .requests => t.requests = s.requests
  | .budget => t.budget = s.budget
  | .permits => t.permits = s.permits
  | .axis a => t.axis a = s.axis a
  | .pumpList => t.axes.pumpList = s.axes.pumpList
  | .latch => t.axes.latch = s.axes.latch
  | .windlass => t.wl = s.wl
  | .pwm => t.out.pwm = s.out.pwm
  | .buffers => t.out.buffers = s.out.buffers
  | .valves => t.out.valves = s.out.valves
  | .bridge => t.out.bridge = s.out.bridge
  | .inputs => t.inp = s.inp

/-- From `s` to `t` no part changes but those listed. -/
def Changes (l : List Part) (s t : State) : Prop := ∀ p : Part, p ∉ l → p.same s t

/-- What a reply and the publication of a record may change: the own queues, the event flags and the records' timers. -/
def published : List Part := [.own .trunk, .own .spur, .events, .pubs]

/-- What an evaluation of the budget unit may change besides: requests, budget unit, duty buffers and the flags. -/
def evaluated : List Part := [.requests, .budget, .buffers, .events]

/-- What the consequences of an event among axes, pump and budget may change: besides an evaluation, the three axes with
their overrides, the pump list, the windlass drive and the motion outputs. -/
def moving : List Part :=
  evaluated ++
    [.groups, .axis .windlass, .axis .platform, .axis .hatch, .pumpList, .windlass, .bridge, .valves]

/-- What an entry into IDLE of an axis may change: its own record, and what the axis held. -/
def idleParts (a : Axis) : List Part := [.windlass, .bridge, .valves, .budget, .pumpList, .groups, .axis a]

/-- What the work of one axis may change. -/
def axisParts (a : Axis) : List Part := idleParts a ++ [.events]

/-! ### Calm states -/

/-- No axis is STARTING. -/
def State.noneStarting (s : State) : Prop := ∀ a, (s.axis a).phase ≠ .starting

/-- A STARTING axis lacks nothing: it is admitted and, if hydraulic, holds the pump, or no reversal pause stands against the
windlass (R140, R141, R165). -/
def State.ready (s : State) (a : Axis) : Prop :=
  (s.axis a).admitted = true ∧ match axisHyd a with
    | none => s.pauseStands = false
    | some h => s.holdsPump h = true

/-- A running part in which every STARTING axis still lacks something, and nothing is left to settle or to publish: no
evaluation is owed, the requests are those of the groups, and the publication records hold their present content. A pending
commit waits for an axis outside IDLE. -/
structure State.Still (s : State) : Prop where
  running : s.power = .running
  waiting : ∀ a, (s.axis a).phase = .starting → ¬ s.ready a
  noEval : s.budget.evalDue = false
  requests : ∀ c : Fin 24, s.requests[c] = s.channelRequest c
  held : ∀ r : Fin 7, s.exe.pubs[r].held = s.recordContent r
  commit : s.store.commitPending = true → ∃ a, (s.axis a).phase ≠ .idle

/-- A running part in which nothing is left to settle or to publish: no axis is STARTING and no waiter stands, the
requests are those of the groups, no evaluation is owed, and the publication records hold their present content. -/
structure State.Quiet (s : State) : Prop where
  running : s.power = .running
  noneStarting : s.noneStarting
  noWaiters : s.budget.waiters = []
  noEval : s.budget.evalDue = false
  requests : ∀ c : Fin 24, s.requests[c] = s.channelRequest c
  held : ∀ r : Fin 7, s.exe.pubs[r].held = s.recordContent r

/-- A quiet state in which no commit is pending: no event has a consequence left to take. -/
structure State.Calm (s : State) : Prop extends State.Quiet s where
  noCommit : s.store.commitPending = false

/-- A part in its start-up load: every block stands at its power-on value (R16, R50, R72, R125, R155, R166). -/
structure State.Loading (s : State) : Prop where
  loading : s.power = .loading
  trunk : s.trunk = PortState.initial s.trunk.fast
  spur : s.spur = PortState.initial s.spur.fast
  watch : ∀ n : Fin 32, s.watch[n] = Slot.initial
  exe : s.exe = Executor.initial
  noCommit : s.store.commitPending = false
  budget : s.budget = Budget.initial
  permits : s.permits = Permits.initial
  axes : s.axes = Axes.initial
  windlass : s.wl = Windlass.initial
  out : s.out = Outputs.initial

/-- The head of the intake queue is `r`, with `rest` behind it, and the part runs: the taking of `r` may come. -/
structure State.Head (s : State) (r : Request) (rest : List Request) : Prop where
  running : s.power = .running
  intake : s.exe.intake = r :: rest

/-- The takings: the commands that the record at the head of the intake queue brings, one for each verb and one for the
records without a known verb (spec/12, 12.2). -/
def takings : List Instr :=
  [.unknownVerb, .scene, .groupSet, .allOff, .ovrPush, .ovrRelease, .wlHaul, .wlPayout, .wlHome, .wlTo, .chainSet, .pfMove,
   .htMove, .axisStop, .allStop, .clearFault, .clearEstop, .cursor, .write, .read, .commit, .discard, .save, .reset,
   .readEvents, .publishNow]

/-- The hydraulic start requests: the payload of the COMMAND, extra bytes among it, the position from which it is asked, the
axis, the direction that resolves, and the target (R61, R138; spec/12, 12.2). -/
inductive HydStart : Instr → List Byte → Position → Hyd → Motion → Target → Prop
  | up (pos : Position) (l : List Byte) : HydStart .pfMove (16 :: 0 :: l) pos .platform .pUp .up
  | down (pos : Position) (l : List Byte) : HydStart .pfMove (16 :: 2 :: l) pos .platform .pDown .down
  | deckFromUp (l : List Byte) : HydStart .pfMove (16 :: 1 :: l) .up .platform .pDown .deck
  | deckFromDown (l : List Byte) : HydStart .pfMove (16 :: 1 :: l) .down .platform .pUp .deck
  | opening (pos : Position) (l : List Byte) : HydStart .htMove (17 :: 0 :: l) pos .hatch .hOpen .opened
  | closing (pos : Position) (l : List Byte) : HydStart .htMove (17 :: 1 :: l) pos .hatch .hClose .closed

/-- The windlass start requests: the payload of the COMMAND, extra bytes among it, the mode, the direction, and the pay-out
target that it carries (R61, R159; spec/12, 12.2). -/
inductive WindlassStart : Instr → List Byte → WindlassMode → Motion → Nat → Prop
  | haul (l : List Byte) : WindlassStart .wlHaul (8 :: l) .manualHaul .wHaul 0
  | payout (l : List Byte) : WindlassStart .wlPayout (9 :: l) .manualPayout .wPayout 0
  | home (l : List Byte) : WindlassStart .wlHome (10 :: l) .haulHome .wHaul 0
  | to (x y z : Byte) (l : List Byte) :
      WindlassStart .wlTo (11 :: x :: y :: z :: l) .payoutTo .wPayout (x.toNat * 65536 + y.toNat * 256 + z.toNat)

/-- The argument bytes of a verb are too few, or one that names a thing names none (R61, R62, R178; spec/12, 12.2). -/
def badArguments (i : Instr) (l : List Byte) : Bool :=
  let a := fun j => (l.getD j 0).toNat
  match i with
  | .scene => decide (l.length < 1) || decide (47 < a 0)
  | .groupSet => decide (l.length < 3) || decide (11 < a 0)
  | .ovrPush => decide (l.length < 6) || decide (11 < a 0) || decide (15 < a 1)
  | .ovrRelease => decide (l.length < 2) || decide (11 < a 0) || decide (15 < a 1)
  | .wlTo | .chainSet => decide (l.length < 3)
  | .pfMove | .axisStop | .clearFault => decide (l.length < 1) || decide (2 < a 0)
  | .htMove | .read => decide (l.length < 1) || decide (1 < a 0)
  | .write => decide (l.length < 1)
  | .cursor =>
    decide (l.length < 4) || decide (2 < a 3) ||
      (match Table.ofCode (a 0) with
       | none => true
       | some t => decide (t.entries ≤ a 1 * 256 + a 2))
  | .publishNow => decide (1 ≤ l.length) && decide (6 < a 0)
  | _ => false

/-- The two foot switches: the event of one, its input and the other's, and the mode and motion of its run (R159, R163). -/
inductive FootSide : Feet → Fin 13 → Fin 13 → WindlassMode → Motion → Prop
  | up : FootSide .up footUpInput footDownInput .footHaul .wHaul
  | down : FootSide .down footDownInput footUpInput .footPayout .wPayout

/-- An axis's start reservation fits: base draw, the reservations held, the start reservation and the floor draw of the
lighting are within the limit of the source in force (R122). -/
def State.fits (s : State) (a : Axis) : Prop :=
  s.zone Zone.baseDraw + s.reserved + s.axisField a AxisTable.startRes + floorDraw s.chans ≤ s.limitOf s.sourceNow

/-- A request that was addressed is answered in `t` (R59): its arrival port's own queue holds the REPLY with the code and
data. The own queue of `s` has room for the reply and for a new entry of each record, so none is refused or removed. -/
def Answered (s t : State) (r : Request) (res : Result) (data : List Byte) : Prop :=
  r.broadcast = false → (s.port r.port).phase ≠ .isolated → (s.port r.port).own.length ≤ 4 →
    ∃ e ∈ (t.port r.port).own, e.record = none ∧ e.frame = s.replyFrame r res data

/-- The budget unit after an evaluation with no source and no reservation, as at the end of the load and at a zone reset: source
UNKNOWN with the least limit, and the verdict of the present requests (R111, R115 to R117, R125). -/
structure BudgetFromUnknown (t : State) : Prop where
  source : t.budget.source = .unknown
  limit : t.budget.limit = min (t.zone Zone.lShore) (min (t.zone Zone.lGen) (t.zone Zone.lBatt))
  reserved : ∀ a, t.budget.res.get a = .none
  waiters : t.budget.waiters = []
  requests : ∀ c : Fin 24, t.requests[c] = t.channelRequest c
  phase : t.budget.phase = (verdict t.chans t.budget.limit (t.zone Zone.baseDraw)).phase
  depth : t.budget.depth = (verdict t.chans t.budget.limit (t.zone Zone.baseDraw)).depth
  scale : t.budget.k = (verdict t.chans t.budget.limit (t.zone Zone.baseDraw)).k
  grants : ∀ c : Fin 24,
    t.budget.grants[c] = (t.chan c).granted (verdict t.chans t.budget.limit (t.zone Zone.baseDraw))
  flag : t.budget.phase = .overdrawn → t.raised .overdrawn = true

/-- The budget unit after an evaluation from the present slots, reservations and requests: the source in force and its limit,
and the verdict and grants that they give (R111, R113 to R117). -/
structure BudgetEvaluated (t : State) : Prop where
  source : t.budget.source = t.sourceNow
  limit : t.budget.limit = t.limitOf t.sourceNow
  requests : ∀ c : Fin 24, t.requests[c] = t.channelRequest c
  phase : t.budget.phase = (verdict t.chans t.budget.limit (t.zone Zone.baseDraw + t.reserved)).phase
  depth : t.budget.depth = (verdict t.chans t.budget.limit (t.zone Zone.baseDraw + t.reserved)).depth
  scale : t.budget.k = (verdict t.chans t.budget.limit (t.zone Zone.baseDraw + t.reserved)).k
  grants : ∀ c : Fin 24,
    t.budget.grants[c] = (t.chan c).granted (verdict t.chans t.budget.limit (t.zone Zone.baseDraw + t.reserved))

/-- The blocked-motion set and the stop-demand set are those of the results (R132). -/
structure PermitSetsFormed (t : State) : Prop where
  blocked : ∀ m, t.blocked m = t.motionBlocked t.permits.results m
  stops : ∀ m, inSet t.permits.stops m = t.motionStopped t.permits.results m

/-- A notice that names a set of watch slots has been taken up (R47): every WATCH entry on one of them is evaluated, with the
sets formed afresh, and no other entry is; and where one is the source slot the budget unit evaluates (R113, R131, R132). -/
structure NoticeTaken (s t : State) (named : Fin 32 → Prop) : Prop where
  results : ∀ (e : Fin 24) (n : Fin 32), s.permitField e PermitTable.kind = 0 →
    s.permitField e PermitTable.subject = n.val → named n →
    t.permits.results[e] = t.permitResult e ∧ PermitSetsFormed t
  others : ∀ e : Fin 24, (∀ n : Fin 32, s.permitField e PermitTable.kind = 0 →
    s.permitField e PermitTable.subject = n.val → ¬ named n) → t.permits.results[e] = s.permits.results[e]
  silent : (∀ (e : Fin 24) (n : Fin 32), s.permitField e PermitTable.kind = 0 →
    s.permitField e PermitTable.subject = n.val → ¬ named n) → t.permits = s.permits
  budget : ∀ n, s.sourceSlot = some n → named n → BudgetEvaluated t

/-- A stop of the axis takes time: a valve lag to run, or a duty to ramp down (R143, R150, R160). -/
def State.slowStop (s : State) (a : Axis) : Prop :=
  if a = .windlass then s.axisField a AxisTable.rampTime ≠ 0 ∧ s.wl.duty ≠ 0 else s.axisField a AxisTable.lag ≠ 0

/-- What the axis controller does to an axis at an evaluation of the permits, by the sets that stand after it (R133): STARTING
with its motion blocked, it is IDLE with NO_PERMIT; RUNNING in the stop-demand set, it stops with NO_PERMIT; RUNNING and not
in that set, be its motion blocked or not, it runs on. -/
structure PermitsAct (s t : State) (a : Axis) : Prop where
  starting : ∀ m, (s.axis a).phase = .starting → (s.axis a).dir = some m → t.blocked m = true →
    (t.axis a).phase = .idle ∧ (t.axis a).dir = none ∧ (t.axis a).last = .noPermit
  stopping : ∀ m, (s.axis a).phase = .running → (s.axis a).dir = some m → inSet t.permits.stops m = true → s.slowStop a →
    (t.axis a).phase = .stopping ∧ (t.axis a).last = .noPermit ∧
    if a = .windlass then t.wl.dutyTarget = 0 ∧ t.wl.duty = s.wl.duty
    else (t.axis a).lag = some (s.axisField a AxisTable.lag)
  atOnce : ∀ m, (s.axis a).phase = .running → (s.axis a).dir = some m → inSet t.permits.stops m = true → ¬ s.slowStop a →
    (t.axis a).phase = .idle ∧ (t.axis a).last = .noPermit
  runsOn : ∀ m, (s.axis a).phase = .running → (s.axis a).dir = some m → inSet t.permits.stops m = false →
    a ∉ s.budget.waiters → t.axis a = s.axis a

/-- The permit entries that read one of some inputs are evaluated at its new level, the same for all, and no others are (R129
to R132). -/
structure EntriesTake (s t : State) (inputs : List (Fin 13)) (level : Bool) : Prop where
  others : ∀ e : Fin 24, (∀ i ∈ inputs, s.permitField e PermitTable.kind = 1 →
    permitInput (s.permitField e PermitTable.subject) ≠ some i) → t.permits.results[e] = s.permits.results[e]
  disabled : ∀ e : Fin 24, ∀ i ∈ inputs, s.permitField e PermitTable.kind = 1 →
    permitInput (s.permitField e PermitTable.subject) = some i → s.permitField e PermitTable.enabled = 0 →
    t.permits.results[e] = true
  tested : ∀ e : Fin 24, ∀ i ∈ inputs, s.permitField e PermitTable.kind = 1 →
    permitInput (s.permitField e PermitTable.subject) = some i → s.permitField e PermitTable.enabled ≠ 0 →
    t.permits.results[e] =
      permitTest (s.permitField e PermitTable.test) level.toNat (s.permitField e PermitTable.a)
        (s.permitField e PermitTable.b)
  formed : ∀ e : Fin 24, ∀ i ∈ inputs, s.permitField e PermitTable.kind = 1 →
    permitInput (s.permitField e PermitTable.subject) = some i → PermitSetsFormed t

/-- The output of a group follows a change of its stack from `x` to `y`: a top entry with another source or level brings a
transition to its level, an emptied stack a return to the base target, each over the transition time (in units of 100 ms)
and at once where it is 0, and any other change leaves the output (R95, R96). -/
structure OutputFollows (x y : LightGroup) (transition : Nat) : Prop where
  kept : ∀ old rest top below, x.stack = old :: rest → y.stack = top :: below → old.source = top.source →
    old.level = top.level → y = { x with stack := top :: below }
  governed : ∀ top below, y.stack = top :: below →
    (∀ old rest, x.stack = old :: rest → old.source ≠ top.source ∨ old.level ≠ top.level) →
    y = { x with
      stack := top :: below, mode := .governed, outTarget := top.level
      out := if transition = 0 then top.level else x.out
      outFade := if transition = 0 then none
        else some { start := x.out, elapsed := 0, steps := transition * 10, wait := 10 } }
  returned : x.stack ≠ [] → y.stack = [] →
    y = { x with
      stack := [], base := x.baseTarget, baseFade := none, outTarget := x.baseTarget
      mode := if transition = 0 then .follow else .returning
      out := if transition = 0 then x.baseTarget else x.out
      outFade := if transition = 0 then none
        else some { start := x.out, elapsed := 0, steps := transition * 10, wait := 10 } }

/-- No stack holds an override of the axis (R106, R144). -/
def State.noOverrides (s : State) (a : Axis) : Prop :=
  ∀ g : Fin 12, ∀ o ∈ s.groups[g].stack, o.source ≠ axisSource a

/-- The permit unit after an evaluation of all 24 entries from the present subjects (R131, R132, R135, R136). -/
structure PermitsMade (t : State) : Prop where
  results : ∀ e : Fin 24, t.permits.results[e] = t.permitResult e
  blocked : ∀ m, t.blocked m = t.motionBlocked t.permits.results m
  stops : ∀ m, inSet t.permits.stops m = t.motionStopped t.permits.results m

/-- The output stage after an applied commit (R167 to R169): a channel that turns disabled with idle behaviour HOLD holds (and
one that was held while disabled, log entry 34); a bank whose period changed restarts from 0, with the buffers of the present
grants loaded but for the channels that hold; a bank whose period is unchanged runs on. -/
structure OutputsReconfigured (s t : State) : Prop where
  hold : ∀ c : Fin 24, t.out.hold[c] =
    (!t.channelOn c && t.channelField c ChannelTable.idle == 1 && (s.channelOn c || s.out.hold[c]))
  restarted : ∀ b : Fin 3, t.zone (Zone.period b) ≠ s.out.banks[b].period →
    t.out.banks[b] = { counter := 0, due := false, period := t.zone (Zone.period b) } ∧
    ∀ c : Fin 24, bankOf c = b → t.out.buffers[c] = t.budget.grants[c] * t.zone (Zone.period b) / 1000 ∧
      t.out.loaded[c] = (if t.out.hold[c] then s.out.loaded[c] else t.out.buffers[c]) ∧
      t.out.activeHigh[c] = (t.channelField c ChannelTable.polarity == 0)
  runsOn : ∀ b : Fin 3, t.zone (Zone.period b) = s.out.banks[b].period →
    t.out.banks[b] = s.out.banks[b] ∧
    ∀ c : Fin 24, bankOf c = b → t.out.loaded[c] = s.out.loaded[c] ∧ t.out.activeHigh[c] = s.out.activeHigh[c] ∧
      (t.budget.grants[c] ≠ s.budget.grants[c] →
        t.out.buffers[c] = t.budget.grants[c] * t.zone (Zone.period b) / 1000)

/-- A commit has been applied (R51, R81, R83): the clamped shadow bank is the active bank, nothing is pending, every slot is
EMPTY and every axis IDLE, every permit entry and the budget with its requests are evaluated (R107, R113, R136), and the PWM
banks and holds are those of the new tables (R167, R169). -/
structure CommitApplied (s t : State) : Prop where
  store : t.store = { s.store with active := clampBank s.store.shadow, commitPending := false }
  slots : ∀ n : Fin 32, t.watch[n] = Slot.initial
  idle : ∀ a, (t.axis a).phase = .idle
  unfitted : ∀ a, s.fitted a = true → t.fitted a = false → (t.axis a).last = .none
  refresh : t.exe.refresh = if t.zone Zone.refresh = 0 then none else some (t.zone Zone.refresh * 1000)
  counter : t.wl.counter = min s.wl.counter (t.axisField .windlass AxisTable.rode)
  permits : PermitsMade t
  budget : BudgetEvaluated t
  outputs : OutputsReconfigured s t

/-! ### Invariants -/

/-- The banks and the stored image are in canonical form, the cursor stands within its table, and the write assembly
holds less than an entry (R75, R76). -/
structure State.MemoryWf (s : State) : Prop where
  cursor : s.exe.cursor.index < s.exe.cursor.table.entries
  assembly : s.exe.assembly.length < s.exe.cursor.table.entryBytes
  active : Memory.wf s.store.active = true
  shadow : Memory.wf s.store.shadow = true
  image : Memory.wf s.store.image = true

/-- A list is in rising order of a key. -/
def SortedBy {α : Type} (key : α → Nat) (l : List α) : Prop := l.Pairwise fun x y => key x ≤ key y

/-- A port's queues are within their bounds, and its fault score agrees with its state (R10, R11, R13, R14). -/
structure PortState.QueuesOk (ps : PortState) : Prop where
  active : ps.phase = .active → ps.score < 96
  score : ps.phase = .degraded → 80 ≤ ps.score ∧ ps.score < 200
  fwd : ps.fwd.length ≤ fwdMax
  own : ps.own.length ≤ ownMax
  order : SortedBy OwnEntry.key ps.own
  records : ∀ e ∈ ps.own, e.record.isSome = true → e.frame.cls = 2
  degraded : ps.phase = .degraded → ∀ f ∈ ps.fwd, f.cls.toNat < 2
  isolated : ps.phase = .isolated → ps.fwd = [] ∧ ps.own = []

/-- The queues of the ports and of the executor are within their bounds, in class order (R13, R14, R52). -/
structure State.QueuesOk (s : State) : Prop where
  port : ∀ p, (s.port p).QueuesOk
  intake : s.exe.intake.length ≤ intakeMax
  order : SortedBy Request.key s.exe.intake

/-- An override stack has at most 4 entries, of distinct sources, in falling order of priority (R102). -/
structure StackOk (st : List Override) : Prop where
  room : st.length ≤ 4
  order : st.Pairwise fun x y => y.priority ≤ x.priority
  distinct : (st.map Override.source).Nodup

/-- A group in GOVERNED has an entry, and a group in another mode has none (R94). -/
structure LightGroup.Ok (g : LightGroup) : Prop where
  stack : StackOk g.stack
  governed : g.mode = .governed ↔ g.stack ≠ []

/-- An axis that is neither IDLE nor FAULTED moves, or waits to move. -/
def AxisState.busy (x : AxisState) : Prop := x.phase = .starting ∨ x.phase = .running ∨ x.phase = .stopping

/-- An axis in motion: RUNNING or STOPPING. -/
def AxisState.inMotion (x : AxisState) : Prop := x.phase = .running ∨ x.phase = .stopping

/-- What holds of the motion outputs in every state: the bridge drives and a duty stands only while the windlass is in
motion, a valve is open only for the direction of its axis in motion, the pump runs only while a hydraulic axis is
RUNNING, and while the e-stop latch is set, or the part does not run, no axis is under way (R135, R144, R146, R150, R153,
R155, R171, R172). -/
structure State.MotionSafe (s : State) : Prop where
  power : s.power ≠ .running → ∀ a, (s.axis a).phase = .idle
  fitted : ∀ a, (s.axis a).phase ≠ .idle → s.fitted a = true
  direction : ∀ a, (s.axis a).busy → ∃ m, (s.axis a).dir = some m ∧ m.axis = a
  latch : s.axes.latch = true → ∀ a, ¬ (s.axis a).busy
  duty : s.wl.duty ≠ 0 → (s.axis .windlass).inMotion ∧ s.out.bridge.dir = (s.axis .windlass).dir
  bridge : s.out.bridge.dir ≠ none → s.wl.duty ≠ 0
  platformUp : s.out.platformUp = true → (s.axis .platform).inMotion ∧ (s.axis .platform).dir = some .pUp
  platformDown : s.out.platformDown = true → (s.axis .platform).inMotion ∧ (s.axis .platform).dir = some .pDown
  hatchOpen : s.out.hatchOpen = true → (s.axis .hatch).inMotion ∧ (s.axis .hatch).dir = some .hOpen
  hatchClose : s.out.hatchClose = true → (s.axis .hatch).inMotion ∧ (s.axis .hatch).dir = some .hClose
  pump : s.out.pump = true → ∃ h, (s.axis (hydAxis h)).phase = .running ∧ s.holdsPump h = true
  holder : ∀ h, (s.axis (hydAxis h)).inMotion → s.holdsPump h = true
  pumpOnce : s.axes.pumpList.Nodup

end Sys2Proof.Machine
end

