-- ==== Sys2Proof/WellFormed.lean ====
section
/-! DEFINITION. Which commands are well formed. Every operand's type holds just its values, but for the bits of an
arrival. -/

namespace Sys2Proof

/-- The most bits a frame has from its class to its end marker: 2 + 2 + 10 + 6 + 6 + 4 + 64 + 16 + 2 (spec/12, 12.1). -/
def frameBits : Nat := 112

/-- A well-formed command: an arrival carries no more bits than the longest frame has. -/
def Instr.wf : Instr → Bool
  | .arrival _ bits => decide (bits.length ≤ frameBits)
  | .powerOn _ | .startUpLoadEnd | .powerLoss | .idleBus _ | .lostArbitration _ | .transmitError _ | .completion _
  | .unknownVerb | .scene | .groupSet | .allOff | .ovrPush | .ovrRelease | .wlHaul | .wlPayout | .wlHome | .wlTo
  | .chainSet | .pfMove | .htMove | .axisStop | .allStop | .clearFault | .clearEstop | .cursor | .write | .read
  | .commit | .discard | .save | .saveCompletion | .reset | .readEvents | .publishNow | .spacingExpiry _
  | .refreshExpiry | .slotExpiry _ | .fadeStep _ _ | .startWindowExpiry _ | .startTimeExpiry _ | .valveLeadExpiry _
  | .valveLagExpiry _ | .travelTimeoutExpiry _ | .keepAliveExpiry | .stallExpiry | .reversalPauseExpiry | .rampStep
  | .bridgeCycleStart | .periodStart _ | .sensorChange _ | .homeInputChange _ | .gypsyPulse | .footPress _
  | .footRelease _ | .generalInputChange _ _ | .estopActivation | .estopFall | .overcurrentChange _
  | .startOfFrame _ => true

end Sys2Proof
end

