-- ==== Sys2Proof/Certificates/Slice0/Obligations.lean ====
section
/-! DEFINITION. The statements for the provers, family by family, from the numbered rules of spec/. In each, `t` is the
state that a command answers, and `Changes l s t` is the frame: no part of the state outside the list `l` changes. -/

open Sys2Proof Sys2Proof.Machine

/-! ### The machine -/

/-- A step takes the command at the front of the queue and carries it out on the state with the queue's rest; without power
and without a command nothing happens (the model's choice of queue and idle step: log entries 6 and 9). -/
def Obligations.StepRunsTheFrontCommand : Prop :=
  (∀ (c : Instr) (rest : List Instr) (s : State),
    step { s with pending := c :: rest } = exec c { s with pending := rest }) ∧
  ∀ s : State, s.pending = [] → s.power = .off → step s = .next s

/-- The state after reset is that of a part in its start-up load, each value as R16, R50, R72, R125, R135, R155, R166, R171
and R172 give it at power-on, and it meets the invariants below. -/
def Obligations.ResetHoldsThePowerOnValues : Prop :=
  let s := State.reset
  s.pending = [] ∧ s.power = .loading ∧
  (∀ p, (s.port p).score = 0 ∧ (s.port p).phase = .active ∧ (s.port p).fwd = [] ∧ (s.port p).own = [] ∧
    (s.port p).run = 0 ∧ (s.port p).line = .held) ∧
  (∀ n : Fin 32, s.watch[n].phase = .empty ∧ s.watch[n].payload = [] ∧ s.watch[n].lastSource = 0 ∧ s.watch[n].age = 0 ∧
    s.watch[n].fresh = false) ∧
  s.exe.intake = [] ∧ s.exe.saveCtx = none ∧ s.exe.cursor = { table := .zone, index := 0, mode := .inc } ∧
  s.exe.assembly = [] ∧ s.exe.readOffset = 0 ∧ s.exe.events = 0 ∧
  (∀ r : Fin 7, s.exe.pubs[r].spacing = none ∧ s.exe.pubs[r].dueTrunk = false ∧ s.exe.pubs[r].dueSpur = false) ∧
  s.budget.source = .unknown ∧ (∀ a, s.budget.res.get a = .none) ∧ s.budget.waiters = [] ∧ s.budget.phase = .normal ∧
  (∀ m, s.blocked m = true) ∧ s.permits.stops = 0 ∧
  (∀ a, (s.axis a).phase = .idle ∧ (s.axis a).dir = none ∧ (s.axis a).target = none ∧ (s.axis a).last = .none ∧
    (s.axis a).cause = .none ∧ (s.axis a).admitted = false ∧ (s.axis a).window = none ∧ (s.axis a).startTime = none ∧
    (s.axis a).travel = none ∧ (s.axis a).lead = none ∧ (s.axis a).lag = none) ∧
  (s.axis .platform).pos = .unknown ∧ (s.axis .hatch).pos = .unknown ∧ s.axes.pumpList = [] ∧ s.axes.latch = false ∧
  s.wl.counter = 0 ∧ s.wl.referenced = false ∧ s.wl.mode = .none ∧ s.wl.dutyTarget = 0 ∧ s.wl.duty = 0 ∧
  s.wl.lastDir = none ∧ s.wl.keepAlive = none ∧ s.wl.stall = none ∧ s.wl.ramp = none ∧ s.wl.pause = none ∧
  s.wl.spentUp = false ∧ s.wl.spentDown = false ∧
  s.out.valves = (false, false, false, false, false) ∧ s.out.bridge.dir = none ∧
  s.Loading ∧ s.MemoryWf ∧ s.QueuesOk ∧ s.MotionSafe ∧ ∀ g : Fin 12, s.groups[g].Ok

/-- POWER_ON reads the straps and puts every block at its power-on value, the ports held and the queues empty (R16, R17, R50,
R72, R125, R135, R155, R166, R169, R171, R172, R175). Where the manual gives a value at the end of the load alone, `Loading`
has the model's (log entry 20: permit results, limit, k, PWM periods, windlass position, contents of the records). A power
loss leaves nothing behind: frames held in queues are gone, and the next power-on is that of a part that never lost power
(R18). The non-volatile store and the input pins are kept (log entries 1 and 8), and a frame of another node that is
under way stays so beside the held port (R17, log entry 8). -/
def Obligations.PowerOnAndPowerLoss : Prop :=
  ∀ (straps : Straps) (s : State),
    (∃ u, exec (.powerOn straps) s = .next u ∧ u.Loading ∧ u.node = (if straps.node = 63 then 62 else straps.node) ∧
      u.trunk.fast = straps.trunkFast ∧ u.spur.fast = straps.spurFast ∧
      (∀ p, (u.port p).score = 0 ∧ (u.port p).phase = .active ∧ (u.port p).fwd = [] ∧ (u.port p).own = [] ∧
        (u.port p).run = 0 ∧ (u.port p).line = .held) ∧
      u.store.image = s.store.image ∧ u.store.marker = s.store.marker ∧ u.pending = s.pending ∧
      (∀ i : Fin 13, u.inp.debounced[i].pinHigh = s.inp.debounced[i].pinHigh) ∧ u.inp.estopHigh = s.inp.estopHigh ∧
      u.inp.overHigh = s.inp.overHigh ∧ (∀ p, u.inp.busy p = s.underWay p)) ∧
    ∃ t, exec .powerLoss s = .next t ∧ t.power = .off ∧ (∀ p, (t.port p).fwd = [] ∧ (t.port p).own = []) ∧
      t.store.image = s.store.image ∧ t.store.marker = s.store.marker ∧ t.pending = s.pending ∧
      exec (.powerOn straps) t = exec (.powerOn straps) s

/-- START_UP_LOAD_END: the clamped image, or the defaults with STORE_EMPTY, stand in both banks (R87, R88); every block
takes them up from its power-on state: inputs, positions and e-stop latch (R148, R155, R166, R175), groups (R108),
requests, and an evaluation from source UNKNOWN (R125), every permit entry (R135), PWM banks from count 0 with the duties
of the grants (R169); the ports are released to wait for their first gap, after the end of a frame under way (R17), every
record is queued on every destination port and the refresh timer starts (R65, R67), and the slots stand EMPTY (R50). -/
def Obligations.StartUpLoadEnds : Prop :=
  ∀ s : State, s.Loading →
    ∃ t, exec .startUpLoadEnd s = .next t ∧ t.power = .running ∧
      t.store.active = (if s.store.marker then clampBank s.store.image else []) ∧ t.store.shadow = t.store.active ∧
      t.store.image = s.store.image ∧ t.store.marker = s.store.marker ∧ t.store.commitPending = false ∧
      t.raised .storeEmpty = !s.store.marker ∧
      (∀ p, (t.port p).line = .release (if s.inp.busy p then none else some (10 * bitTime p (s.port p).fast)) ∧
        (t.port p).phase = .active ∧ (t.port p).score = 0 ∧ (t.port p).fwd = []) ∧
      (∀ r, t.trunk.holdsRecord r = true ∧ t.spur.holdsRecord r = (t.zone Zone.publishSpur != 0)) ∧
      (∀ n : Fin 32, t.watch[n] = Slot.initial) ∧
      (∀ i : Fin 13, t.input i = !s.inp.debounced[i].pinHigh) ∧
      t.axes.latch = estopJudge (t.zone Zone.estopPolarity) s.inp.estopHigh ∧ t.raised .estop = t.axes.latch ∧
      (∀ a, (t.axis a).phase = .idle ∧ (t.axis a).pos = t.positionNow a ∧
        (t.axis a).last = (if t.axes.latch && t.fitted a then .estop else .none)) ∧
      (t.axes.latch = false → ∀ g : Fin 12, t.groups[g] = LightGroup.initial (t.groupField g GroupTable.powerUp)) ∧
      t.wl.counter = 0 ∧ t.wl.referenced = false ∧ t.wl.spentUp = t.input footUpInput ∧
      t.wl.spentDown = t.input footDownInput ∧
      t.out.valves = (false, false, false, false, false) ∧ t.out.bridge.dir = none ∧
      (t.exe.refresh = if t.zone Zone.refresh = 0 then none else some (t.zone Zone.refresh * 1000)) ∧
      BudgetFromUnknown t ∧ PermitsMade t ∧
      ∀ c : Fin 24, t.out.hold[c] = false ∧ t.out.activeHigh[c] = (t.channelField c ChannelTable.polarity == 0) ∧
        t.out.banks[bankOf c] = { counter := 0, due := false, period := t.zone (Zone.period (bankOf c)) } ∧
        t.out.buffers[c] = t.budget.grants[c] * t.zone (Zone.period (bankOf c)) / 1000 ∧
        (t.axes.latch = false → t.out.loaded[c] = t.out.buffers[c])

/-- While the part does not run, a port is held off its line: frames are not received and change nothing but whether one is
under way beside it (R17; the mark is the model's, log entry 8). A released port that still waits for its first gap does not
take up a frame: one that ends is not received and not counted, and the gap begins anew at its end; one that begins before
the gap has passed stays under way, and time alone does not bring the gap meanwhile (R17). From the gap on the port receives
at the next start of frame (how the count and the commands bring the gap is the model's choice, log entries 6 and 7). A taking for which no record of its verb stands at the head of the intake queue changes nothing
either (the model's choice, log entry 5). -/
def Obligations.NothingHappensWithoutItsEvent : Prop :=
  (∀ s : State, s.power ≠ .running → ∀ (p : Port) (bits : List Bool),
    exec (.arrival p bits) s = .next (s.setBusy p false) ∧ exec (.idleBus p) s = .next (s.setBusy p false) ∧
    exec (.startOfFrame p) s = .next (s.setBusy p true) ∧
    (∀ b q, (s.setBusy p b).inp.busy q = if q = p then b else s.inp.busy q) ∧
    ∀ b, Changes [.inputs] s (s.setBusy p b) ∧
      (s.setBusy p b).inp.debounced = s.inp.debounced ∧ (s.setBusy p b).inp.estopHigh = s.inp.estopHigh ∧
      (s.setBusy p b).inp.overHigh = s.inp.overHigh) ∧
  (∀ s : State, s.power = .running → ∀ (p : Port) (bits : List Bool) (left : Option Nat),
    (s.port p).line = .release left →
    exec (.arrival p bits) s =
      .next (s.setPort p { s.port p with line := .release (some (10 * bitTime p (s.port p).fast)) }) ∧
    exec (.startOfFrame p) s =
      .next (s.setPort p { s.port p with line := if left = some 0 then .receiving else .release none }) ∧
    (left ≠ some 0 → .idleBus p ∉ s.due) ∧
    (s.pending = [] → s.due = [] → ∃ t, step s = .next t ∧ (t.port p).line = .release (left.map fun n => n - 1))) ∧
  ∀ i ∈ takings, ∀ s : State, (∀ r rest, s.exe.intake = r :: rest → takingOf r ≠ i) → exec i s = .next s

/-! ### The ports -/

/-- The bits of every frame read back as that frame, with every field at every value it admits: the link check that the
sender computes is the one the receiver expects (R3, R176; spec/12, 12.1). -/
def Obligations.FramesReadBack : Prop := ∀ f : Frame, f.wf = true → receive f.lineBits = some f

/-- Of two frames the one with the lower class goes first, then the lower kind, then the lower topic (R4). On an idle bus
the port begins to send the head with the lower key, the own queue's on equal keys (R2, R9), and before another node's
start of frame it does not begin (R2). The same commands find the segment idle once its gap has passed, the first gap after
the release for IDLE_BUS among them (R17, log entry 7). -/
def Obligations.LowerKeyIsSentFirst : Prop :=
  (∀ f g : Frame, f.key < g.key ↔
    f.cls < g.cls ∨ f.cls = g.cls ∧
      (f.kind.code < g.kind.code ∨ f.kind = g.kind ∧ f.topic < g.topic)) ∧
  ∀ (p : Port) (s : State), s.power = .running →
    ((s.port p).line = .idle ∨ (∃ n, (s.port p).line = .gap n) →
      exec (.startOfFrame p) s = .next (s.setPort p { s.port p with line := .receiving })) ∧
    ((s.port p).line = .idle ∨ (∃ n, (s.port p).line = .gap n) ∨ (∃ left, (s.port p).line = .release left) →
    ((s.port p).phase = .isolated ∨ (s.port p).fwd = [] ∧ (s.port p).own = [] →
      exec (.idleBus p) s = .next (s.setPort p { s.port p with line := .idle })) ∧
    ((s.port p).phase ≠ .isolated → ∀ f l, (s.port p).fwd = f :: l →
      (∀ e es, (s.port p).own = e :: es → f.key < e.frame.key) →
      exec (.idleBus p) s = .next (s.setPort p { s.port p with line := .sending false f })) ∧
    ((s.port p).phase ≠ .isolated → ∀ e es, (s.port p).own = e :: es →
      (∀ f l, (s.port p).fwd = f :: l → e.frame.key ≤ f.key) →
      exec (.idleBus p) s = .next (s.setPort p
        { s.port p with line := .sending true e.frame, own := { e with flying := true } :: es })))

/-- A bad frame is a receive error and nothing else (R3, R8): the score of an ACTIVE port rises by 1, and at 96 the port
enters DEGRADED and drops its forward frames of class 2 and 3 (R10); that of a DEGRADED port rises by 1 too, and at 200 the
port is ISOLATED with its queues flushed (R11); an ISOLATED port's recovery run starts again (R12). -/
def Obligations.BadFrameIsAReceiveError : Prop :=
  ∀ (p : Port) (bits : List Bool) (s : State), s.Calm → (s.port p).line.receives = true → receive bits = none →
    let ps := s.port p
    let line := if overlong bits then Line.gap 0 else .gap (10 * bitTime p ps.fast)
    (ps.phase = .active → ps.score < 95 →
      exec (.arrival p bits) s = .next (s.setPort p { ps with line := line, score := ps.score + 1 })) ∧
    (ps.phase = .degraded → 80 ≤ ps.score → ps.score < 199 →
      exec (.arrival p bits) s = .next (s.setPort p { ps with line := line, score := ps.score + 1 })) ∧
    (ps.phase = .isolated →
      exec (.arrival p bits) s = .next (s.setPort p { ps with line := line, run := 0 })) ∧
    (ps.phase = .active → 95 ≤ ps.score → ∃ t, exec (.arrival p bits) s = .next t ∧
      (t.port p).phase = .degraded ∧ (t.port p).score = min 255 (ps.score + 1) ∧ (t.port p).line = line ∧
      (t.port p).fwd = ps.fwd.filter (fun f => decide (f.cls < 2)) ∧ t.raised (degradedEvent p) = true ∧
      Changes ([.link p, .fwd p] ++ published) s t) ∧
    (ps.phase = .degraded → 199 ≤ ps.score → ∃ t, exec (.arrival p bits) s = .next t ∧
      (t.port p).phase = .isolated ∧ (t.port p).fwd = [] ∧ (t.port p).own = [] ∧ (t.port p).run = 0 ∧
      t.raised (isolatedEvent p) = true ∧ Changes ([.link p, .fwd p] ++ published) s t)

/-- A good frame lowers its port's score by 1, which brings a DEGRADED port back below 80, and the 64th good frame in a row
brings an ISOLATED port back with score 0 (R8, R10, R12); the port then waits for the gap (R2). At a return from ISOLATED
every record is queued on the port where it is a destination, and stands there with its present content (R12, R67). -/
def Obligations.GoodFrameMendsThePort : Prop :=
  ∀ (p : Port) (bits : List Bool) (f : Frame) (s : State), s.power = .running → s.store.commitPending = false →
    (s.port p).line.receives = true → receive bits = some f →
    let ps := s.port p
    ∃ t, exec (.arrival p bits) s = .next t ∧ (t.port p).line = .gap (10 * bitTime p ps.fast) ∧
      (ps.phase = .active → ps.score ≤ 96 → (t.port p).phase = .active ∧ (t.port p).score = ps.score - 1) ∧
      (ps.phase = .degraded → ps.score ≤ 200 → (t.port p).score = ps.score - 1 ∧
        (t.port p).phase = if ps.score - 1 < 80 then .active else .degraded) ∧
      (ps.phase = .isolated → ps.run < 63 → (t.port p).phase = .isolated ∧ (t.port p).run = ps.run + 1 ∧
        (t.port p).score = ps.score) ∧
      (ps.phase = .isolated → 63 ≤ ps.run → (t.port p).phase = .active ∧ (t.port p).run = 0 ∧ (t.port p).score = 0 ∧
        (ps.own = [] → s.destination p = true → ∀ k, (t.port p).holdsRecord k = true ∧
          (s.Calm → ∃ e ∈ (t.port p).own, e.record = some k ∧ e.frame = t.recordFrame k)))

/-- The slots a good STATE frame matches (R41) all capture it at one capture, whatever the port (R42 to R44); every other
slot is left. The notice of the capture evaluates the WATCH entries on those slots and no others, and the budget unit where
the source slot is among them (R47, R113, R131, R132). -/
def Obligations.StateFrameIsCaptured : Prop :=
  ∀ (p : Port) (bits : List Bool) (f : Frame) (s : State), s.power = .running → s.store.commitPending = false →
    (s.port p).line.receives = true → receive bits = some f → f.kind = .state →
    let matched := fun n : Fin 32 =>
      s.watchField n WatchTable.enabled ≠ 0 ∧ s.watchField n WatchTable.topic = f.topic.toNat ∧
        (s.watchField n WatchTable.filter = 255 ∨ s.watchField n WatchTable.filter = f.src.toNat) ∧ f.src ≠ 63
    ∃ t, exec (.arrival p bits) s = .next t ∧
      (∀ n : Fin 32,
        (matched n → t.watch[n] =
          { phase := .fresh, payload := f.payload, lastSource := f.src, age := 0, fresh := true, due := false }) ∧
        (¬ matched n → t.watch[n] = s.watch[n])) ∧
      NoticeTaken s t matched ∧
      Changes ([.link p, .fwd p, .fwd (otherPort p), .watch, .permits] ++ moving ++ published) s t

/-- A COMMAND that the accept field covers (R23), or a SETUP from the trunk (R25), addressed to the part or broadcast (R28),
joins the intake queue with its record (R27), behind every record of its class or a more urgent one (R52). An addressed
one is not forwarded. -/
def Obligations.RequestIsDelivered : Prop :=
  ∀ (p : Port) (bits : List Bool) (f : Frame) (b : Bool) (s : State), s.Calm → (s.port p).line.receives = true →
    receive bits = some f → (b = false ∧ f.dst = some s.node ∨ b = true ∧ f.dst = some 63 ∧ s.node ≠ 63) →
    (f.kind = .command ∧ acceptCovers (s.topicField f.topic TopicTable.accept) p = true ∨ f.kind = .setup ∧ p = .trunk) →
    s.exe.intake.length < 8 → SortedBy Request.key s.exe.intake →
    ∃ t front back, exec (.arrival p bits) s = .next t ∧ s.exe.intake = front ++ back ∧
      t.exe.intake = front ++
        { port := p, broadcast := b, cls := f.cls, kind := f.kind, topic := f.topic, src := f.src, payload := f.payload } ::
          back ∧
      (∀ r ∈ front, r.cls ≤ f.cls) ∧ (∀ r ∈ back, f.cls < r.cls) ∧
      (b = false → Changes ([.link p, .fwd p, .intake] ++ published) s t) ∧
      Changes ([.link p, .fwd p, .fwd (otherPort p), .intake] ++ published) s t

/-- At a full intake queue a more urgent record evicts the tail, which is answered BUSY, and INTAKE_EVICTED is raised; any
other record is itself answered BUSY and the queue is left (R53). An addressed COMMAND from a port its topic does not
accept, or a SETUP from the spur, is answered DENIED and not delivered (R23 to R25). -/
def Obligations.RefusedRequestIsAnswered : Prop :=
  (∀ (p : Port) (bits : List Bool) (f : Frame) (l : List Request) (tail : Request) (s : State), s.Calm →
     (s.port p).line.receives = true → receive bits = some f → f.dst = some s.node →
     ((s.port p).phase = .degraded → (s.port p).score < 200) →
     (f.kind = .command ∧ acceptCovers (s.topicField f.topic TopicTable.accept) p = true ∨ f.kind = .setup ∧ p = .trunk) →
     s.exe.intake = l ++ [tail] → l.length = 7 → SortedBy Request.key s.exe.intake →
     let r : Request :=
       { port := p, broadcast := false, cls := f.cls, kind := f.kind, topic := f.topic, src := f.src, payload := f.payload }
     ∃ t, exec (.arrival p bits) s = .next t ∧
       (f.cls < tail.cls → t.raised .intakeEvicted = true ∧ Answered s t tail .busy [] ∧
         (∃ front back, l = front ++ back ∧ t.exe.intake = front ++ r :: back ∧ (∀ x ∈ front, x.cls ≤ f.cls) ∧
           ∀ x ∈ back, f.cls < x.cls) ∧
         Changes ([.link p, .fwd p, .intake] ++ published) s t) ∧
       (tail.cls ≤ f.cls → Answered s t r .busy [] ∧ Changes ([.link p, .fwd p] ++ published) s t)) ∧
  (∀ (p : Port) (bits : List Bool) (f : Frame) (s : State), s.Calm → (s.port p).line.receives = true →
     receive bits = some f → f.dst = some s.node →
     ((s.port p).phase = .degraded → (s.port p).score < 200) →
     (f.kind = .command ∧ acceptCovers (s.topicField f.topic TopicTable.accept) p = false ∨ f.kind = .setup ∧ p = .spur) →
     ∃ t, exec (.arrival p bits) s = .next t ∧
       Answered s t
         { port := p, broadcast := false, cls := f.cls, kind := f.kind, topic := f.topic, src := f.src, payload := f.payload }
         .denied [] ∧
       Changes ([.link p, .fwd p] ++ published) s t)

/-- A passing frame, a STATE frame, and the forwarding half of a broadcast request or a REPLY to all nodes go by the
direction field of the arrival port (R21, R28 to R30) to the other port's forward queue: to the tail of a queue with room
(R33); dropped with FORWARD_DROP at an ISOLATED port (R31), and for class 2 and 3 at a DEGRADED port (R32) and at a full
queue (R35); in class 0 and 1 at a full queue by the removal of the next statement (R34). Capture is what a STATE frame
changes besides, and delivery what a broadcast request changes (R22, R28). -/
def Obligations.PassingFrameIsForwarded : Prop :=
  ∀ (p : Port) (bits : List Bool) (f : Frame) (s : State), s.Calm → (s.port p).line.receives = true →
    receive bits = some f → f.kind = .state ∨ f.dst ≠ some s.node →
    let qs := s.port (otherPort p)
    let passes := (match p with
      | .trunk => s.topicField f.topic TopicTable.down
      | .spur => s.topicField f.topic TopicTable.up) ≠ 0
    let parts := [.link p, .fwd p, .fwd (otherPort p)] ++ published
    ∃ t, exec (.arrival p bits) s = .next t ∧
      (f.kind = .state → Changes ([.watch, .permits] ++ moving ++ parts) s t) ∧
      (f.kind ≠ .state → f.kind = .reply ∨ f.dst ≠ some 63 → Changes parts s t) ∧
      (f.kind ≠ .state → Changes (.intake :: parts) s t) ∧
      (¬ passes → (t.port (otherPort p)).fwd = qs.fwd) ∧
      (passes → qs.phase = .isolated → (t.port (otherPort p)).fwd = qs.fwd ∧ t.raised .forwardDrop = true) ∧
      (passes → qs.phase = .degraded → 2 ≤ f.cls → (t.port (otherPort p)).fwd = qs.fwd ∧ t.raised .forwardDrop = true) ∧
      (passes → qs.phase = .active ∨ qs.phase = .degraded ∧ f.cls < 2 → qs.fwd.length < 16 →
        (t.port (otherPort p)).fwd = qs.fwd ++ [f]) ∧
      (passes → qs.phase = .active → 16 ≤ qs.fwd.length → 2 ≤ f.cls →
        (t.port (otherPort p)).fwd = qs.fwd ∧ t.raised .forwardDrop = true) ∧
      (passes → qs.phase ≠ .isolated → 16 ≤ qs.fwd.length → f.cls < 2 →
        (t.port (otherPort p)).fwd = ((s.offerForward (otherPort p) f).port (otherPort p)).fwd ∧
        t.raised .forwardDrop = true)

/-- At a full forward queue a frame of class 0 or 1 takes the room of the youngest frame of class 3, or else of class 2, and
is dropped where there is none; FORWARD_DROP is raised each time (R34). The frame in flight, at the head of the queue, is
passed over. -/
def Obligations.UrgentFrameMakesRoom : Prop :=
  ∀ (p : Port) (f : Frame) (head rest : List Frame) (s : State), (s.port p).phase ≠ .isolated →
    (s.port p).fwd = head ++ rest → 16 ≤ (s.port p).fwd.length → f.cls < 2 →
    ((∀ g, (s.port p).line ≠ .sending false g) ∧ head = [] ∨ (∃ g h, (s.port p).line = .sending false g ∧ head = [h])) →
    let u := s.offerForward p f
    u.raised .forwardDrop = true ∧
    (∀ old young g, rest = old ++ g :: young → g.cls = 3 → (∀ x ∈ young, x.cls ≠ 3) →
      (u.port p).fwd = head ++ old ++ young ++ [f]) ∧
    (∀ old young g, rest = old ++ g :: young → (∀ x ∈ rest, x.cls ≠ 3) → g.cls = 2 → (∀ x ∈ young, x.cls ≠ 2) →
      (u.port p).fwd = head ++ old ++ young ++ [f]) ∧
    ((∀ x ∈ rest, x.cls < 2) → (u.port p).fwd = (s.port p).fwd) ∧
    Changes [.fwd p, .events] s u

/-- A port that loses arbitration keeps the frame in its place and receives (R5). A transmit error keeps it too and raises
the score by 8 (R6, R8), which at 96 makes an ACTIVE port DEGRADED (R10) and at 200 a DEGRADED port ISOLATED, its queues
flushed (R11). The mark of a changed entry falls (R15). A completion takes the frame from its queue, lowers the score, and
brings the gap (R7, R8); below 80 a DEGRADED port is ACTIVE again (R10). A publication entry that changed while it was sent
stays, its marks cleared (R15). -/
def Obligations.SendingEnds : Prop :=
  (∀ (p : Port) (o : Bool) (f : Frame) (s : State), s.Calm → (s.port p).line = .sending o f →
     (∀ e ∈ (s.port p).own, e.leaving = false) →
     let ps := s.port p
     let own := ps.own.map fun e => { e with flying := false, changed := false }
     exec (.lostArbitration p) s = .next (s.setPort p { ps with line := .receiving, own := own }) ∧
     (ps.phase = .active → ps.score < 88 →
       exec (.transmitError p) s =
         .next (s.setPort p { ps with line := .receiving, own := own, score := ps.score + 8 })) ∧
     (ps.phase = .degraded → 80 ≤ ps.score → ps.score < 192 →
       exec (.transmitError p) s =
         .next (s.setPort p { ps with line := .receiving, own := own, score := ps.score + 8 })) ∧
     (ps.phase = .degraded → 192 ≤ ps.score → ∃ t, exec (.transmitError p) s = .next t ∧ (t.port p).phase = .isolated ∧
       (t.port p).fwd = [] ∧ (t.port p).own = [] ∧ (t.port p).run = 0 ∧ (t.port p).line = .receiving ∧
       t.raised (isolatedEvent p) = true ∧ (ps.fwd ≠ [] → t.raised .forwardDrop = true) ∧
       ((∃ e ∈ own, e.record = none) → t.raised .replyDropped = true) ∧
       Changes ([.link p, .fwd p] ++ published) s t) ∧
     (ps.phase = .active → 88 ≤ ps.score → ∃ t, exec (.transmitError p) s = .next t ∧ (t.port p).phase = .degraded ∧
       (t.port p).score = min 255 (ps.score + 8) ∧ (t.port p).line = .receiving ∧
       (t.port p).fwd = ps.fwd.filter (fun g => decide (g.cls < 2)) ∧ t.raised (degradedEvent p) = true ∧
       Changes ([.link p, .fwd p] ++ published) s t)) ∧
  (∀ (p : Port) (o : Bool) (f : Frame) (s : State), s.Calm → (s.port p).line = .sending o f →
     (s.port p).phase = .degraded → (s.port p).score ≤ 80 →
     ∃ t, exec (.completion p) s = .next t ∧ (t.port p).phase = .active ∧ (t.port p).score = (s.port p).score - 1 ∧
       (t.port p).line = .gap (10 * bitTime p (s.port p).fast) ∧
       (t.port p).fwd = (if o then (s.port p).fwd else (s.port p).fwd.tail) ∧
       Changes ([.link p, .fwd p] ++ published) s t) ∧
  (∀ (p : Port) (f : Frame) (s : State), s.Calm →
     ((s.port p).phase = .active ∧ (s.port p).score ≤ 96 ∨
       (s.port p).phase = .degraded ∧ 81 ≤ (s.port p).score ∧ (s.port p).score ≤ 200) →
     let ps := s.port p
     let gap := Line.gap (10 * bitTime p ps.fast)
     (∀ l, ps.line = .sending false f → ps.fwd = f :: l →
       exec (.completion p) s = .next (s.setPort p { ps with line := gap, score := ps.score - 1, fwd := l })) ∧
     (∀ front e back, ps.line = .sending true f → ps.own = front ++ e :: back → e.flying = true → e.leaving = false →
       (∀ x ∈ front ++ back, x.flying = false ∧ x.changed = false) →
       exec (.completion p) s = .next (s.setPort p
         { ps with
           line := gap
           score := ps.score - 1
           own := front ++ (if e.changed then { e with flying := false, changed := false } :: back else back) })))

/-! ### The watch table and the time base -/

/-- A FRESH slot whose age reaches its limit turns STALE and keeps the rest; the other slots are left (R46). Its notice
evaluates the WATCH entries on it and no others, and the budget unit where it is the source slot (R47, R113, R131). At a
step of the 1 ms base the age of every FRESH or STALE slot advances by 1, up to 65,535, and that of an EMPTY slot stays
(R45); the step that would bring a FRESH slot to its limit leaves its expiry due, and a waiting record is to be taken
(R46, R55; how the base is stepped is log entry 6). That SLOT_EXPIRY sets the age to the limit, and that the step of the
base keeps it one short with the mark `due`, is the model's choice (log entry 7). -/
def Obligations.SlotsAgeAndExpire : Prop :=
  (∀ (n : Fin 32) (s : State), s.power = .running → s.store.commitPending = false → s.watch[n].phase = .fresh →
     s.watch[n].age ≤ s.watchField n WatchTable.limit →
     ∃ t, exec (.slotExpiry n) s = .next t ∧
       t.watch[n] = { s.watch[n] with phase := .stale, age := s.watchField n WatchTable.limit, due := false } ∧
       (∀ m : Fin 32, m ≠ n → t.watch[m] = s.watch[m]) ∧ NoticeTaken s t (fun m => m = n) ∧
       Changes ([.watch, .permits] ++ moving ++ published) s t) ∧
  (∀ s : State, s.pending = [] → s.power = .running → s.due = [] → s.clock = 9999 →
     ∃ t, step s = .next t ∧ t.clock = 0 ∧ t.exe.intake = s.exe.intake ∧ t.exe.takeDue = !s.exe.intake.isEmpty ∧
       ∀ n : Fin 32,
         (s.watch[n].phase = .empty → t.watch[n] = s.watch[n]) ∧
         (s.watch[n].phase = .stale → t.watch[n] = { s.watch[n] with age := min 65535 (s.watch[n].age + 1) }) ∧
         (s.watch[n].phase = .fresh → s.watch[n].age + 1 < s.watchField n WatchTable.limit →
           t.watch[n] = { s.watch[n] with age := s.watch[n].age + 1 }) ∧
         (s.watch[n].phase = .fresh → s.watchField n WatchTable.limit ≤ s.watch[n].age + 1 →
           t.watch[n] = { s.watch[n] with due := true }))

/-! ### The executor -/

/-- A REPLY carries the class and the topic of its request, goes to its source, and holds the result code, the verb echo and
the data (R59). A record without payload or with a verb unknown for its kind is answered BAD_VERB and changes nothing
(R56, R177), and one with too few argument bytes, or with an argument that names nothing, BAD_ARG (R61, R62, R178). -/
def Obligations.UnusableRecordIsAnswered : Prop :=
  (∀ (s : State) (r : Request) (res : Result) (d : List Byte),
    s.replyFrame r res d =
      { cls := r.cls, kind := .reply, topic := r.topic, src := s.node, dst := some r.src,
        payload := res.code :: r.payload.headD 255 :: d }) ∧
  ∀ (s : State) (r : Request) (rest : List Request), s.Calm → s.Head r rest →
    ((r.payload = [] ∨ ∃ v l, r.payload = v :: l ∧ verbOf r.kind v.toNat = none) →
      ∃ t, exec .unknownVerb s = .next t ∧ t.exe.intake = rest ∧ Answered s t r .badVerb [] ∧
        Changes (.intake :: published) s t) ∧
    ∀ (i : Instr) (v : Byte) (l : List Byte), r.payload = v :: l → verbOf r.kind v.toNat = some i →
      badArguments i l = true →
      ∃ t, exec i s = .next t ∧ t.exe.intake = rest ∧ Answered s t r .badArg [] ∧ Changes (.intake :: published) s t

/-- READ_EVENTS answers the flags as they stand and clears them, where its reply joins; where an ISOLATED port refuses the
reply, no flag is cleared and REPLY_DROPPED is raised; a broadcast one clears nothing (R58, R70). -/
def Obligations.ReadEventsSendsAndClears : Prop :=
  ∀ (s : State) (r : Request) (rest : List Request) (l : List Byte), s.Calm → s.Head r rest → r.kind = .setup →
    r.payload = 71 :: l →
    (r.broadcast = false → (s.port r.port).phase ≠ .isolated → (∀ p, (s.port p).own.length ≤ 4) →
      ∃ t, exec .readEvents s = .next t ∧ t.exe.intake = rest ∧ t.exe.events = 0 ∧
        Answered s t r .ok (beBytes 2 s.exe.events.toNat) ∧ Changes (.intake :: published) s t) ∧
    (r.broadcast = false → (s.port r.port).phase = .isolated →
      ∃ t, exec .readEvents s = .next t ∧ t.exe.intake = rest ∧ t.raised .replyDropped = true ∧
        (∀ e, s.raised e = true → t.raised e = true) ∧ Changes (.intake :: published) s t) ∧
    (r.broadcast = true → ∃ t, exec .readEvents s = .next t ∧ t.exe.intake = rest ∧ Changes [.intake] s t)

/-- PUBLISH_NOW queues the record it names, or all seven, on each destination port with their present content, whatever the
spacing timers (R68). Where its reply is dropped at an ISOLATED port, REPLY_DROPPED may change the ZONE record, which is
then the content that stands (R60, R64). -/
def Obligations.PublishNowQueuesRecords : Prop :=
  ∀ (s : State) (r : Request) (rest : List Request), s.Calm → s.Head r rest → r.kind = .setup →
    ∀ named : Fin 7 → Prop,
      (r.payload = [72] ∧ (∀ k, named k) ∨
        ∃ (n : Byte) (l : List Byte), r.payload = 72 :: n :: l ∧ n.toNat < 7 ∧ ∀ k, named k ↔ k.val = n.toNat) →
      (∀ p, (s.port p).own.length ≤ 4) →
      ∃ t, exec .publishNow s = .next t ∧ t.exe.intake = rest ∧ Answered s t r .ok [] ∧
        (∀ k, named k → ∀ p, s.destination p = true → (s.port p).phase ≠ .isolated →
          ∃ e ∈ (t.port p).own, e.record = some k ∧ e.frame = t.recordFrame k) ∧
        (∀ k, r.broadcast = true ∨ (s.port r.port).phase ≠ .isolated ∨ k ≠ 0 → t.recordFrame k = s.recordFrame k) ∧
        (r.broadcast = false → (s.port r.port).phase = .isolated → t.raised .replyDropped = true) ∧
        Changes (.intake :: published) s t

/-- A change of a record, on each destination port, updates the entry that the port holds in place, or queues the record
where the spacing timer has expired, which starts the timer over 100 ms, or sets the due mark while it runs (R64): so for any
record that differs from the content held, so for the ZONE record at each evaluation whose results make it differ, even if a
later one of the same event undoes them (R119), and so at a gypsy pulse that counts, for the WINDLASS record. As a spacing
timer expires its record is queued on every port whose due mark is set, and the marks fall (R64). At a refresh every record
is queued on every destination port, every due mark falls, and the timer restarts (R65). -/
def Obligations.PublicationTimersQueueRecords : Prop :=
  (∀ (s t : State) (r : Fin 7),
    s.exe.pubs[r].held ≠ s.recordContent r ∧ t = s.publishOne r ∨
      r = 0 ∧ s.power = .running ∧ s.budget.evalDue = true ∧ s.exe.pubs[r].held ≠ s.evalIfDue.recordContent r ∧
        t = s.evalHandOn ∨
      s.Calm ∧ r = 1 ∧ (s.axis .windlass).phase = .idle ∧ exec .gypsyPulse s = .next t ∧
        0 < s.axisField .windlass AxisTable.pocket ∧ s.wl.counter < s.axisField .windlass AxisTable.rode →
    (∀ p, (s.port p).own.length < 12) →
    let spacing := s.exe.pubs[r].spacing
    let new := fun p : Port =>
      s.destination p = true ∧ (s.port p).phase ≠ .isolated ∧ (s.port p).holdsRecord r = false ∧ spacing = none
    t.exe.pubs[r].held = t.recordContent r ∧
    ((∃ p, new p) → t.exe.pubs[r].spacing = some 100) ∧ ((∀ p, ¬ new p) → t.exe.pubs[r].spacing = spacing) ∧
    (∀ p, t.exe.pubs[r].due p =
      (s.exe.pubs[r].due p || s.destination p && !(s.port p).holdsRecord r && spacing.isSome)) ∧
    ∀ p,
      (s.destination p = true → (s.port p).holdsRecord r = true →
        (t.port p).own = (s.port p).own.map fun e =>
          if e.record = some r then { e with frame := t.recordFrame r, changed := e.flying, leaving := false } else e) ∧
      (new p → ∃ front e back, (s.port p).own = front ++ back ∧ (t.port p).own = front ++ e :: back ∧
        e.record = some r ∧ e.frame = t.recordFrame r ∧
        (SortedBy OwnEntry.key (s.port p).own →
          (∀ x ∈ front, x.frame.cls.toNat ≤ 2) ∧ ∀ x ∈ back, 2 < x.frame.cls.toNat)) ∧
      (¬ new p → (s.destination p && (s.port p).holdsRecord r) = false → (t.port p).own = (s.port p).own)) ∧
  ∀ s : State, s.Calm → (∀ p, (s.port p).own.length ≤ 5) →
    (∀ r : Fin 7, s.exe.pubs[r].spacing.isSome = true →
      ∃ t, exec (.spacingExpiry r) s = .next t ∧ t.exe.pubs[r].dueTrunk = false ∧ t.exe.pubs[r].dueSpur = false ∧
        (∀ p, s.exe.pubs[r].due p = true → (s.port p).phase ≠ .isolated →
          ∃ e ∈ (t.port p).own, e.record = some r ∧ e.frame = s.recordFrame r) ∧
        (∀ q : Fin 7, q ≠ r → t.exe.pubs[q] = s.exe.pubs[q]) ∧ Changes published s t) ∧
    (s.exe.refresh.isSome = true →
      ∃ t, exec .refreshExpiry s = .next t ∧
        (t.exe.refresh = if s.zone Zone.refresh = 0 then none else some (s.zone Zone.refresh * 1000)) ∧
        (∀ r : Fin 7, t.exe.pubs[r].dueTrunk = false ∧ t.exe.pubs[r].dueSpur = false ∧
          ∀ p, s.destination p = true → (s.port p).phase ≠ .isolated →
            ∃ e ∈ (t.port p).own, e.record = some r ∧ e.frame = s.recordFrame r) ∧
        Changes (.refresh :: published) s t)

/-! ### Lighting -/

/-- A base command sets the base target and starts a base fade from the present base level (R92, R97): in FOLLOW the output
moves with it (R94), in GOVERNED the output is left (R94), and in RETURN a new output fade of the same time starts toward
the same target (R96). A fade time of 0 sets the levels at once (R92). GROUP_SET gives a base command to one group, over the
command's fade or the group's transition time, unless the group is locked, which is answered DENIED (R97, R101). That the
output target is held at the base target in FOLLOW is the model's choice (log entry 21). -/
def Obligations.GroupSetGivesABaseCommand : Prop :=
  (∀ (g : LightGroup) (level f : Nat),
     let fade := fun start => if f = 0 then none else some { start := start, elapsed := 0, steps := f * 10, wait := 10 }
     let base := if f = 0 then level else g.base
     (g.mode = .follow → baseCommand g level f =
       { g with base := base, baseTarget := level, baseFade := fade g.base, out := base, outTarget := level, outFade := none }) ∧
     (g.mode = .governed → baseCommand g level f = { g with base := base, baseTarget := level, baseFade := fade g.base }) ∧
     (g.mode = .returning → baseCommand g level f =
       { g with
         base := base, baseTarget := level, baseFade := fade g.base
         out := if f = 0 then level else g.out, outTarget := level, outFade := fade g.out
         mode := if f = 0 then .follow else .returning })) ∧
  (∀ (s : State) (r : Request) (rest : List Request) (c hi lo : Byte) (tail : List Byte), s.Calm → s.Head r rest →
     r.kind = .command → r.payload = 2 :: c :: hi :: lo :: tail →
     (∀ g : Fin 12, c.toNat = g.val → s.groups[g].locked = false → ∀ fade : Nat,
       (tail.length < 2 ∧ fade = s.transition g ∨
         ∃ x y l, tail = x :: y :: l ∧ fade = min 600 (x.toNat * 256 + y.toNat)) →
       ∃ t, exec .groupSet s = .next t ∧ t.exe.intake = rest ∧ Answered s t r .ok [] ∧
         t.groups[g] = baseCommand s.groups[g] (min 1000 (hi.toNat * 256 + lo.toNat)) fade ∧
         (∀ k : Fin 12, k ≠ g → t.groups[k] = s.groups[k]) ∧
         Changes (.intake :: .groups :: evaluated ++ published) s t) ∧
     (∀ g : Fin 12, c.toNat = g.val → s.groups[g].locked = true →
       ∃ t, exec .groupSet s = .next t ∧ t.exe.intake = rest ∧ Answered s t r .denied [] ∧
         Changes (.intake :: published) s t))

/-- SCENE gives a base command to the group of each item, over the item's fade or the command's, skips locked groups and is
then answered PARTIAL (R99); ALL_OFF gives one to level 0 to every group that is not locked (R100). No item names a group
twice. -/
def Obligations.SceneAndAllOff : Prop :=
  ∀ (s : State) (r : Request) (rest : List Request), s.Calm → s.Head r rest → r.kind = .command →
    (∀ (c : Byte) (tail : List Byte), r.payload = 1 :: c :: tail → c.toNat < 48 →
      let count := s.field .scene c.toNat SceneTable.count
      let item := fun j => groupOf (s.field .scene c.toNat (SceneTable.itemGroup j))
      (∀ i j g, i < j → j < count → item i = some g → item j ≠ some g) →
      ∃ t, exec .scene s = .next t ∧ t.exe.intake = rest ∧
        (∀ j g, j < count → item j = some g → s.groups[g].locked = false → t.groups[g] =
          baseCommand s.groups[g] (s.field .scene c.toNat (SceneTable.itemLevel j)) (match tail with
            | x :: y :: _ => min 600 (x.toNat * 256 + y.toNat)
            | _ => s.field .scene c.toNat (SceneTable.itemFade j))) ∧
        (∀ g : Fin 12, s.groups[g].locked = true ∨ (∀ j, j < count → item j ≠ some g) → t.groups[g] = s.groups[g]) ∧
        ((∃ j g, j < count ∧ item j = some g ∧ s.groups[g].locked = true) → Answered s t r .partialDone []) ∧
        ((∀ j g, j < count → item j = some g → s.groups[g].locked = false) → Answered s t r .ok []) ∧
        Changes (.intake :: .groups :: evaluated ++ published) s t) ∧
    (∀ tail : List Byte, r.payload = 3 :: tail →
      ∃ t, exec .allOff s = .next t ∧ t.exe.intake = rest ∧ Answered s t r .ok [] ∧
        (∀ g : Fin 12, t.groups[g] =
          if s.groups[g].locked then s.groups[g]
          else baseCommand s.groups[g] 0 (match tail with
            | x :: y :: _ => min 600 (x.toNat * 256 + y.toNat)
            | _ => s.transition g)) ∧
        Changes (.intake :: .groups :: evaluated ++ published) s t)

/-- OVR_PUSH places an entry below those of higher priority and above the rest, in place of its source's old one (R102). At
a full stack it evicts a lowest entry that is unlocked and of lower priority, or is answered FULL and leaves the stack
(R103). The output follows each placing: a top entry of another source or level makes the group GOVERNED and starts the
transition to its level, where the new entry is the top, evicting or not, and where a replaced top sinks below another
entry; while the top keeps source and level the output is left (R95, R103). -/
def Obligations.PushedOverrideGoverns : Prop :=
  ∀ (s : State) (r : Request) (rest : List Request) (c src prio hi lo lock : Byte) (l : List Byte) (g : Fin 12), s.Calm →
    s.Head r rest → r.kind = .command → r.payload = [4, c, src, prio, hi, lo, lock] ++ l → c.toNat = g.val → src.toNat ≤ 15 →
    StackOk s.groups[g].stack →
    let o : Override :=
      { source := src.toNat, priority := min 7 prio.toNat, level := min 1000 (hi.toNat * 256 + lo.toNat),
        lock := lock.toNat != 0 }
    let x := s.groups[g]
    let others := x.stack.filter fun y => y.source != o.source
    let placed := fun (t : State) (left : List Override) =>
      Answered s t r .ok [] ∧ OutputFollows x t.groups[g] (s.transition g) ∧
      ∃ above below, left = above ++ below ∧ t.groups[g].stack = above ++ o :: below ∧
        (∀ y ∈ above, o.priority < y.priority) ∧ ∀ y ∈ below, y.priority ≤ o.priority
    ∃ t, exec .ovrPush s = .next t ∧ t.exe.intake = rest ∧ (∀ k : Fin 12, k ≠ g → t.groups[k] = s.groups[k]) ∧
      Changes (.intake :: .groups :: evaluated ++ published) s t ∧
      (others.length < 4 → placed t others) ∧
      (∀ front low, others = front ++ [low] → front.length = 3 →
        (low.priority < o.priority ∧ low.lock = false → placed t front ∧ t.raised .overrideEvicted = true) ∧
        (o.priority ≤ low.priority ∨ low.lock = true →
          Answered s t r .full [] ∧ t.groups[g] = x ∧ Changes (.intake :: published) s t))

/-- OVR_RELEASE removes its source's entry wherever it stands, locked or not, and the entries above and below keep their
order; where the stack holds no such entry nothing changes (R104). After a removal the output follows: the last entry
gone, it returns to the base target over the transition time (R96); under a new top of another source or level it makes a
transition to its level over that time (R95); either is made at once where the time is 0. -/
def Obligations.ReleasedOverrideLeaves : Prop :=
  ∀ (s : State) (r : Request) (rest : List Request) (c src : Byte) (l : List Byte) (g : Fin 12), s.Calm → s.Head r rest →
    r.kind = .command → r.payload = 5 :: c :: src :: l → c.toNat = g.val → src.toNat ≤ 15 →
    let x := s.groups[g]
    let left := x.stack.filter fun o => o.source != src.toNat
    ∃ t, exec .ovrRelease s = .next t ∧ t.exe.intake = rest ∧ Answered s t r .ok [] ∧
      (∀ k : Fin 12, k ≠ g → t.groups[k] = s.groups[k]) ∧ Changes (.intake :: .groups :: evaluated ++ published) s t ∧
      t.groups[g].stack = left ∧
      (left = x.stack → t.groups[g] = x) ∧
      (left ≠ x.stack → OutputFollows x t.groups[g] (s.transition g)) ∧
      (∀ top below, left ≠ x.stack → left = top :: below →
        (∀ old ∈ x.stack.head?, old.source ≠ top.source ∨ old.level ≠ top.level) →
        t.groups[g].mode = .governed ∧ t.groups[g].outTarget = top.level ∧
        (s.transition g = 0 → t.groups[g].out = top.level) ∧
        (s.transition g ≠ 0 → t.groups[g].out = x.out ∧ t.groups[g].outFade =
          some { start := x.out, elapsed := 0, steps := s.transition g * 10, wait := 10 })) ∧
      (left ≠ x.stack → left = [] → t.groups[g].base = x.baseTarget ∧ t.groups[g].baseFade = none ∧
        t.groups[g].outTarget = x.baseTarget ∧
        (s.transition g = 0 → t.groups[g].out = x.baseTarget ∧ t.groups[g].mode = .follow) ∧
        (s.transition g ≠ 0 → t.groups[g].out = x.out ∧ t.groups[g].mode = .returning ∧ t.groups[g].outFade =
          some { start := x.out, elapsed := 0, steps := s.transition g * 10, wait := 10 }))

/-- A fade step brings the level to start + (target − start) × e / D, truncated toward zero, and the D-th step completes the
fade (R92). In FOLLOW the output moves with the base, in GOVERNED the base moves alone (R94), and the completion of a
return brings FOLLOW (R96). In RETURN the two fades that one base command started step together, by either command (R96). -/
def Obligations.FadeStepMovesTheLevel : Prop :=
  ∀ (g : Fin 12) (f : Fade) (s : State), s.Calm → f.elapsed < f.steps →
    let x := s.groups[g]
    let level' := fun (f : Fade) (target : Nat) =>
      (f.start : Int) + Int.tdiv (((target : Int) - f.start) * (f.elapsed + 1)) f.steps
    let next' := fun f : Fade =>
      if f.elapsed + 1 = f.steps then none else some { f with elapsed := f.elapsed + 1, wait := 10 }
    let level := level' f
    let next := next' f
    (∀ (o : Fade) (l : Layer), x.mode = .returning → x.baseFade = some f → x.outFade = some o → o.elapsed < o.steps →
      ∃ t, exec (.fadeStep g l) s = .next t ∧ (t.groups[g].base : Int) = level x.baseTarget ∧
        (t.groups[g].out : Int) = level' o x.outTarget ∧
        t.groups[g] = { x with
          base := t.groups[g].base, baseFade := next, out := t.groups[g].out, outFade := next' o
          mode := if o.elapsed + 1 = o.steps then .follow else .returning } ∧
        (∀ k : Fin 12, k ≠ g → t.groups[k] = s.groups[k]) ∧ Changes (.groups :: evaluated ++ published) s t) ∧
    (x.baseFade = some f → x.mode ≠ .returning →
      ∃ t, exec (.fadeStep g .base) s = .next t ∧ (t.groups[g].base : Int) = level x.baseTarget ∧
        t.groups[g] = { x with
          base := t.groups[g].base, baseFade := next, out := if x.mode = .follow then t.groups[g].base else x.out } ∧
        (∀ k : Fin 12, k ≠ g → t.groups[k] = s.groups[k]) ∧ Changes (.groups :: evaluated ++ published) s t) ∧
    (x.outFade = some f → x.baseFade = none ∨ x.mode = .governed →
      ∃ t, exec (.fadeStep g .output) s = .next t ∧ (t.groups[g].out : Int) = level x.outTarget ∧
        t.groups[g] = { x with
          out := t.groups[g].out, outFade := next
          mode := if f.elapsed + 1 = f.steps ∧ x.mode = .returning then .follow else x.mode } ∧
        (∀ k : Fin 12, k ≠ g → t.groups[k] = s.groups[k]) ∧ Changes (.groups :: evaluated ++ published) s t)

/-- A fade never passes its target, moves toward it at each step, and stands at it at the D-th (R92). -/
def Obligations.FadeReachesItsTarget : Prop :=
  ∀ start target d : Nat, 0 < d →
    fadeLevel start target d d = target ∧ fadeLevel start target 0 d = start ∧
    ∀ e, e < d →
      (start ≤ target → fadeLevel start target e d ≤ fadeLevel start target (e + 1) d ∧
        fadeLevel start target (e + 1) d ≤ target) ∧
      (target ≤ start → fadeLevel start target (e + 1) d ≤ fadeLevel start target e d ∧
        target ≤ fadeLevel start target (e + 1) d)

/-- An override stack keeps its order, its distinct sources and its four places through pushes and releases (R102 to
R104), and so does every group at every step, with GOVERNED the mode of exactly the groups whose stack holds an entry
(R94, R95, R96). -/
def Obligations.StackKeepsItsOrder : Prop :=
  (∀ s t : State, (∀ g : Fin 12, s.groups[g].Ok) → step s = .next t → ∀ g : Fin 12, t.groups[g].Ok) ∧
  ∀ (st : List Override) (o : Override) (src : Nat), StackOk st →
    StackOk (pushStack st o).1 ∧ StackOk (dropSource src st) ∧
    ((pushStack st o).2 ≠ .refused → o ∈ (pushStack st o).1) ∧
    ((pushStack st o).2 = .refused → (pushStack st o).1 = st) ∧
    ∀ x ∈ st, x.lock = true → x.source ≠ o.source → x ∈ (pushStack st o).1

/-! ### The budget unit -/

/-- The class scaled is the highest whose floors fit, and k is the largest scale with which the draw fits the allowance
(R116). -/
def Obligations.SheddingTakesTheLargestScale : Prop :=
  ∀ (cs : List Chan) (limit taken : Nat), (verdict cs limit taken).phase = .shedding →
    let v := verdict cs limit taken
    taken ≤ limit ∧ 1 ≤ v.depth ∧ v.depth ≤ 3 ∧ v.k ≤ 256 ∧ limit - taken < requestDraw cs ∧
    totalDraw cs v.depth v.k ≤ limit - taken ∧
    (∀ k, v.k < k → k ≤ 256 → limit - taken < totalDraw cs v.depth k) ∧
    (∀ d, v.depth < d → d ≤ 3 → limit - taken < totalDraw cs d 0)

/-- Every evaluation leaves the grants within the bounds of R118: outside OVERDRAWN the granted draws, the base draw and the
reservations are within the limit; in OVERDRAWN every enabled channel of class 1 to 3 has the lesser of floor and request;
an enabled channel's grant lies between that and its request, and a channel of class 0 has its request. It takes the source
in force from the source slot's byte, and UNKNOWN with the least limit where there is none (R111); an entry into UNKNOWN
raises SOURCE_UNKNOWN (R112). The state is OVERDRAWN exactly where base draw, reservations and floors exceed the limit, and
NORMAL where the requests fit (R115, R117); an entry into OVERDRAWN raises its flag (R117). -/
def Obligations.GrantsStayWithinTheLimit : Prop :=
  ∀ s : State,
    let t := s.evaluate
    let taken := t.zone Zone.baseDraw + t.reserved
    t.requests = s.requests ∧
    (s.sourceSlot = none → t.budget.source = .unknown) ∧
    (∀ n : Fin 32, s.sourceSlot = some n →
      let slot := s.watch[n]
      let offset := s.zone Zone.sourceOffset
      (slot.phase ≠ .fresh ∨ slot.payload.length ≤ offset → t.budget.source = .unknown) ∧
      ∀ b : Byte, slot.phase = .fresh → slot.payload[offset]? = some b →
        t.budget.source = if b = 0 then .shore else if b = 1 then .gen else .batt) ∧
    (t.budget.limit = match t.budget.source with
      | .shore => s.zone Zone.lShore
      | .gen => s.zone Zone.lGen
      | .batt => s.zone Zone.lBatt
      | .unknown => min (s.zone Zone.lShore) (min (s.zone Zone.lGen) (s.zone Zone.lBatt))) ∧
    (t.raised .sourceUnknown = true ↔
      s.raised .sourceUnknown = true ∨ t.budget.source = .unknown ∧ s.budget.source ≠ .unknown) ∧
    (t.budget.phase = .overdrawn ↔ t.budget.limit < taken + floorDraw t.chans) ∧
    (t.budget.phase = .normal ↔ taken + requestDraw t.chans ≤ t.budget.limit) ∧
    (t.raised .overdrawn = true ↔
      s.raised .overdrawn = true ∨ t.budget.phase = .overdrawn ∧ s.budget.phase ≠ .overdrawn) ∧
    (t.budget.phase ≠ .overdrawn →
      ((List.finRange 24).map fun c => draw (t.chan c).rated (t.budget.grants[c])).sum + t.zone Zone.baseDraw + t.reserved ≤
        t.budget.limit) ∧
    ∀ c : Fin 24,
      (t.channelOn c = false → t.budget.grants[c] = 0) ∧
      (t.channelOn c = true →
        min (t.channelField c ChannelTable.floor) t.requests[c] ≤ t.budget.grants[c] ∧
        t.budget.grants[c] ≤ t.requests[c] ∧
        (t.channelField c ChannelTable.shed = 0 → t.budget.grants[c] = t.requests[c]) ∧
        (t.budget.phase = .overdrawn → t.channelField c ChannelTable.shed ≠ 0 →
          t.budget.grants[c] = min (t.channelField c ChannelTable.floor) t.requests[c]))

/-- Admission is by the limit with the lighting at its floors: a state whose reservations fit still has them fit after the
waiters are tested, each waiter is admitted or waits on in order, and one at the head that fits is admitted (R122). -/
def Obligations.AdmissionKeepsTheLimit : Prop :=
  ∀ (s : State) (floors : Nat), s.budget.waiters.Nodup → (∀ a ∈ s.budget.waiters, s.budget.res.get a = .none) →
    let t := s.testWaiters floors s.budget.waiters
    (s.zone Zone.baseDraw + s.reserved + floors ≤ s.budget.limit →
      t.zone Zone.baseDraw + t.reserved + floors ≤ t.budget.limit) ∧
    t.budget.limit = s.budget.limit ∧ t.budget.waiters.Sublist s.budget.waiters ∧
    (∀ a ∈ s.budget.waiters, a ∉ t.budget.waiters →
      (t.axis a).admitted = true ∧ t.budget.res.get a = .start (s.axisField a AxisTable.startRes)) ∧
    (∀ a ∈ t.budget.waiters, t.budget.res.get a = .none) ∧
    ∀ a rest, s.budget.waiters = a :: rest →
      s.zone Zone.baseDraw + s.reserved + s.axisField a AxisTable.startRes + floors ≤ s.budget.limit →
      a ∉ t.budget.waiters

/-! ### Permits -/

/-- A motion's permit is FALSE exactly when an enabled entry that gates it has result FALSE, and the stop demand holds it
exactly when such an entry has hold policy STOP (R132). A disabled entry has result TRUE (R127). An evaluated entry tests
its subject's value (R130): one or two bytes of a FRESH slot's payload, the stale result where they are not there (R128); the
level of an input, or the code of an axis's position (R129). -/
def Obligations.PermitsFollowTheEntries : Prop :=
  ∀ (s : State) (named : Fin 24 → Bool) (m : Motion),
    let t := s.formPermits named
    (t.blocked m = true ↔
      ∃ e : Fin 24, t.permitField e PermitTable.enabled ≠ 0 ∧
        (t.permitField e PermitTable.gated).testBit m.bit = true ∧ t.permits.results[e] = false) ∧
    (inSet t.permits.stops m = true ↔
      ∃ e : Fin 24, t.permitField e PermitTable.enabled ≠ 0 ∧
        (t.permitField e PermitTable.gated).testBit m.bit = true ∧ t.permitField e PermitTable.hold = 1 ∧
        t.permits.results[e] = false) ∧
    (∀ e : Fin 24, named e = true → s.permitField e PermitTable.enabled = 0 → t.permits.results[e] = true) ∧
    (∀ e : Fin 24, named e = false → t.permits.results[e] = s.permits.results[e]) ∧
    (∀ v a b : Nat, (permitTest 0 v a b = true ↔ v = a) ∧ (permitTest 1 v a b = true ↔ v ≠ a) ∧
      (permitTest 2 v a b = true ↔ v < a) ∧ (permitTest 3 v a b = true ↔ a < v) ∧
      (permitTest 4 v a b = true ↔ a ≤ v ∧ v ≤ b) ∧ (permitTest 5 v a b = true ↔ v < a ∨ b < v) ∧
      (permitTest 6 v a b = true ↔ v &&& a = a) ∧ (permitTest 7 v a b = true ↔ v &&& a = 0)) ∧
    ∀ e : Fin 24, named e = true → s.permitField e PermitTable.enabled ≠ 0 →
      let kind := s.permitField e PermitTable.kind
      let subject := s.permitField e PermitTable.subject
      let offset := s.permitField e PermitTable.offset
      let width := s.permitField e PermitTable.width
      let tests := fun v => permitTest (s.permitField e PermitTable.test) v (s.permitField e PermitTable.a)
        (s.permitField e PermitTable.b)
      (∀ n : Fin 32, kind = 0 → subject = n.val →
        (s.watch[n].phase ≠ .fresh ∨ s.watch[n].payload.length < offset + width →
          t.permits.results[e] = (s.permitField e PermitTable.stale == 1)) ∧
        (∀ x : Byte, s.watch[n].phase = .fresh → width = 1 → s.watch[n].payload[offset]? = some x →
          t.permits.results[e] = tests x.toNat) ∧
        ∀ x y : Byte, s.watch[n].phase = .fresh → width = 2 → s.watch[n].payload[offset]? = some x →
          s.watch[n].payload[offset + 1]? = some y → t.permits.results[e] = tests (x.toNat * 256 + y.toNat)) ∧
      (∀ i : Fin 13, kind = 1 → permitInput subject = some i → t.permits.results[e] = tests (s.input i).toNat) ∧
      ∀ a : Axis, kind = 2 → subject = axisCode a → t.permits.results[e] = tests (s.axis a).pos.code

/-- A change of a general input is taken by the input, with its stability count at 0, and by every permit entry that reads
it, and by nothing else but what an evaluation of the permits brings (R129 to R131, R173). Where an entry reads it the sets
are formed afresh and the axis controller acts on them (R132, R133): a STARTING axis whose motion is blocked returns to IDLE
with NO_PERMIT, a RUNNING one in the stop-demand set stops with NO_PERMIT, and one that START_ONLY entries alone block
runs on. At a sample, every millisecond, an input whose sampled level equals its debounced level sets its count to 0; one
that differs counts, and at its debounce time the change stands to be taken, the gypsy's change to inactive alone being
taken at once, for no reader (R173; how the base is stepped is log entry 6). -/
def Obligations.GeneralInputReachesThePermits : Prop :=
  (∀ (n : Fin 4) (active : Bool) (s : State), s.power = .running → s.store.commitPending = false →
    ∃ t, exec (.generalInputChange n active) s = .next t ∧
      (∀ i : Fin 13, t.input i = if i.val = 9 + n.val then active else s.input i) ∧
      (∀ i : Fin 13, if i.val = 9 + n.val then t.inp.debounced[i].count = 0 else t.inp.debounced[i] = s.inp.debounced[i]) ∧
      (∀ e : Fin 24,
        let reads := s.permitField e PermitTable.kind = 1 ∧ s.permitField e PermitTable.subject = n.val
        (¬ reads → t.permits.results[e] = s.permits.results[e]) ∧
        (reads → s.permitField e PermitTable.enabled = 0 → t.permits.results[e] = true) ∧
        (reads → s.permitField e PermitTable.enabled ≠ 0 → t.permits.results[e] =
          permitTest (s.permitField e PermitTable.test) active.toNat (s.permitField e PermitTable.a)
            (s.permitField e PermitTable.b)) ∧
        (reads → PermitSetsFormed t ∧ ∀ a, PermitsAct s t a)) ∧
      Changes ([.inputs, .permits] ++ moving ++ published) s t) ∧
  ∀ s : State, s.pending = [] → s.power = .running → s.due = [] → s.clock = 9999 →
    ∃ t, step s = .next t ∧ ∀ i : Fin 13,
      let x := s.inp.debounced[i]
      let y := t.inp.debounced[i]
      let differs := (!x.pinHigh) != x.active
      let limit := if i = gypsyInput then 2 else 20
      y.pinHigh = x.pinHigh ∧
      (differs = false → y.active = x.active ∧ y.count = 0) ∧
      (differs = true → x.count + 1 < limit → y.active = x.active ∧ y.count = x.count + 1) ∧
      (differs = true → limit ≤ x.count + 1 → i = gypsyInput → x.active = true → y.active = false ∧ y.count = 0) ∧
      (differs = true → limit ≤ x.count + 1 → i ≠ gypsyInput ∨ x.active = false →
        y.active = x.active ∧ t.changing i = true ∧ (i = gypsyInput → .gypsyPulse ∈ t.due) ∧
        (i = homeInput → .homeInputChange (!x.active) ∈ t.due) ∧
        ∀ n : Fin 4, i = generalInput n → .generalInputChange n (!x.active) ∈ t.due)

/-! ### Starts -/

/-- The checks of a hydraulic start request, in order (R138): an axis that is not fitted is answered BAD_ARG; the e-stop
latch, and then a FAULTED axis, FAULTED; a pending commit, BUSY (R83); STOPPING, or STARTING or RUNNING the other way, BUSY;
a target already reached, by the position (log entry 17), OK; a permit that is FALSE, NO_PERMIT. PF_MOVE DECK from a place
that is not UP, DECK or DOWN is answered NO_POSITION, and from DECK, at an IDLE platform, OK. Nothing but the executor's own
state changes. -/
def Obligations.HydraulicStartRefused : Prop :=
  (∀ (i : Instr) (l : List Byte) (pos : Position) (h : Hyd) (m : Motion) (target : Target) (res : Result) (s : State)
    (r : Request) (rest : List Request), HydStart i l pos h m target → s.Still → s.Head r rest → r.kind = .command →
    r.payload = l → (s.axis (hydAxis h)).pos = pos →
    (let x := s.axis (hydAxis h)
     let fitted := s.fitted (hydAxis h) = true
     let past3 := fitted ∧ s.axes.latch = false ∧ x.phase ≠ .faulted
     let past4 := past3 ∧ s.store.commitPending = false
     s.fitted (hydAxis h) = false ∧ res = .badArg ∨
     fitted ∧ s.axes.latch = true ∧ res = .faulted ∨
     fitted ∧ s.axes.latch = false ∧ x.phase = .faulted ∧ res = .faulted ∨
     past3 ∧ s.store.commitPending = true ∧ res = .busy ∨
     past4 ∧ x.phase = .stopping ∧ res = .busy ∨
     past4 ∧ (x.phase = .starting ∨ x.phase = .running) ∧ x.dir ≠ some m ∧ res = .busy ∨
     past4 ∧ x.phase = .idle ∧ x.pos = target.position ∧ res = .ok ∨
     past4 ∧ x.phase = .idle ∧ x.pos ≠ target.position ∧ s.blocked m = true ∧ res = .noPermit) →
    ∃ t, exec i s = .next t ∧ t.exe.intake = rest ∧ Answered s t r res [] ∧ Changes (.intake :: published) s t) ∧
  ∀ (l : List Byte) (res : Result) (s : State) (r : Request) (rest : List Request), s.Still →
    s.store.commitPending = false → s.Head r rest → r.kind = .command → r.payload = 16 :: 1 :: l →
    s.fitted .platform = true → s.axes.latch = false → (s.axis .platform).phase ≠ .faulted →
    ((s.axis .platform).pos ≠ .up ∧ (s.axis .platform).pos ≠ .deck ∧ (s.axis .platform).pos ≠ .down ∧ res = .noPosition ∨
      (s.axis .platform).phase = .idle ∧ (s.axis .platform).pos = .deck ∧ res = .ok) →
    ∃ t, exec .pfMove s = .next t ∧ t.exe.intake = rest ∧ Answered s t r res [] ∧ Changes (.intake :: published) s t

/-- A start request while its axis is STARTING or RUNNING in the direction that it resolves to retargets it: a hydraulic axis
takes the new target, the windlass the mode and a fresh keep-alive (R138, R139, R159). While the target is not reached the
axis goes on, and the reply is OK to a RUNNING and ACCEPTED to a STARTING axis. A target already reached ends the motion with
REACHED and is answered OK: STOPPING from RUNNING, IDLE from STARTING, and so does PF_MOVE DECK at position DECK (R139).
Reached is judged by the position for a hydraulic axis (log entry 17); a mode other than PAYOUT_TO holds the pay-out target
0 (log entry 22). -/
def Obligations.StartRequestRetargetsARun : Prop :=
  ∀ (i : Instr) (bytes : List Byte) (s : State) (r : Request) (rest : List Request), s.Still →
    s.store.commitPending = false → s.Head r rest → r.kind = .command → r.payload = bytes → s.axes.latch = false →
    (∀ (pos : Position) (h : Hyd) (m : Motion) (target : Target), HydStart i bytes pos h m target →
      let a := hydAxis h
      (s.axis a).pos = pos → s.fitted a = true → (s.axis a).dir = some m →
      ((s.axis a).phase = .starting ∨ (s.axis a).phase = .running → pos ≠ target.position →
        ∃ t, exec i s = .next t ∧ t.exe.intake = rest ∧
          Answered s t r (if (s.axis a).phase = .running then .ok else .accepted) [] ∧
          t.axis a = { s.axis a with target := some target } ∧ Changes ([.intake, .axis a] ++ published) s t) ∧
      ((s.axis a).phase = .running → pos = target.position → s.axisField a AxisTable.lag ≠ 0 →
        ∃ t, exec i s = .next t ∧ t.exe.intake = rest ∧ Answered s t r .ok [] ∧ t.out.pump = false ∧
          t.axis a = { s.axis a with
            phase := .stopping, target := some target, last := .reached, lag := some (s.axisField a AxisTable.lag)
            travel := none, startTime := none, lead := none } ∧
          Changes ([.intake, .axis a, .valves] ++ published) s t) ∧
      ((s.axis a).phase = .starting → pos = target.position →
        ∃ t, exec i s = .next t ∧ t.exe.intake = rest ∧ Answered s t r .ok [] ∧ (t.axis a).phase = .idle ∧
          (t.axis a).last = .reached ∧ (t.axis a).dir = none ∧ (s.axes.pumpList.Nodup → h ∉ t.axes.pumpList) ∧
          Changes (.intake :: moving ++ published) s t)) ∧
    (i = .pfMove → (∃ l, bytes = 16 :: 1 :: l) → (s.axis .platform).pos = .deck → s.fitted .platform = true →
      ((s.axis .platform).phase = .running → s.axisField .platform AxisTable.lag ≠ 0 →
        ∃ t, exec i s = .next t ∧ t.exe.intake = rest ∧ Answered s t r .ok [] ∧ (t.axis .platform).phase = .stopping ∧
          (t.axis .platform).target = some .deck ∧ (t.axis .platform).last = .reached ∧ t.out.pump = false ∧
          Changes ([.intake, .axis .platform, .valves] ++ published) s t) ∧
      ((s.axis .platform).phase = .starting →
        ∃ t, exec i s = .next t ∧ t.exe.intake = rest ∧ Answered s t r .ok [] ∧ (t.axis .platform).phase = .idle ∧
          (t.axis .platform).last = .reached ∧ Changes (.intake :: moving ++ published) s t)) ∧
    ∀ (mode : WindlassMode) (m : Motion) (n : Nat), WindlassStart i bytes mode m n → s.fitted .windlass = true →
      (s.axis .windlass).dir = some m → s.footRun = false →
      let wl := { s.wl with
          mode := mode
          payTarget := if mode = .payoutTo then min n s.rode else 0
          keepAlive := if mode = .manualHaul ∨ mode = .manualPayout then
              some (s.axisField .windlass AxisTable.keepAlive)
            else none }
      ((s.axis .windlass).phase = .starting ∨ (s.axis .windlass).phase = .running →
        (m = .wHaul → s.input homeInput = false) → (mode = .payoutTo → s.wl.counter < min n s.rode) →
        ∃ t, exec i s = .next t ∧ t.exe.intake = rest ∧
          Answered s t r (if (s.axis .windlass).phase = .running then .ok else .accepted) [] ∧
          t.wl = wl ∧ Changes ([.intake, .windlass] ++ published) s t) ∧
      ((s.axis .windlass).phase = .running → mode = .payoutTo → min n s.rode ≤ s.wl.counter →
        s.axisField .windlass AxisTable.rampTime ≠ 0 → s.wl.duty ≠ 0 →
        ∃ t, exec i s = .next t ∧ t.exe.intake = rest ∧ Answered s t r .ok [] ∧ (t.axis .windlass).phase = .stopping ∧
          (t.axis .windlass).last = .reached ∧ t.wl = { wl with dutyTarget := 0, stall := none } ∧
          Changes ([.intake, .axis .windlass, .windlass] ++ published) s t) ∧
      ((s.axis .windlass).phase = .starting → mode = .payoutTo → min n s.rode ≤ s.wl.counter →
        ∃ t, exec i s = .next t ∧ t.exe.intake = rest ∧ Answered s t r .ok [] ∧ (t.axis .windlass).phase = .idle ∧
          (t.axis .windlass).last = .reached ∧ t.wl.mode = .none ∧ Changes (.intake :: moving ++ published) s t)

/-- A hydraulic start request that passes the checks, with the pump free and its start reservation within the limit,
enters RUNNING at once (R140, R142): the valve of its direction opens, the pump follows the valve lead, the travel timeout
and the start time run, the axis's overrides enter each stack with room, and the reply is ACCEPTED (R120, R122, R142,
R150, R151). -/
def Obligations.HydraulicStartRuns : Prop :=
  ∀ (i : Instr) (l : List Byte) (pos : Position) (h : Hyd) (m : Motion) (target : Target) (s : State) (r : Request)
    (rest : List Request), HydStart i l pos h m target → s.Calm → s.Head r rest → r.kind = .command → r.payload = l →
    let a := hydAxis h
    (s.axis a).pos = pos → s.fitted a = true → s.axes.latch = false → (s.axis a).phase = .idle →
    pos ≠ target.position → s.blocked m = false → s.fits a → s.axes.pumpList = [] →
    s.out.valves = (false, false, false, false, false) → s.conflict h = false → s.input (targetSensor target) = false →
    let lead := s.axisField a AxisTable.lead
    let start := s.axisField a AxisTable.startTime
    ∃ t, exec i s = .next t ∧ t.exe.intake = rest ∧ Answered s t r .accepted [] ∧
      t.axis a = { s.axis a with
        phase := .running, dir := some m, target := some target, admitted := true, window := none
        startTime := if start = 0 then none else some start
        lead := if lead = 0 then none else some lead
        travel := some (s.axisField a (AxisTable.travel (if m = .pDown ∨ m = .hClose then 1 else 0)) * 1000) } ∧
      t.out.valves = (decide (m = .pUp), decide (m = .pDown), decide (m = .hOpen), decide (m = .hClose), decide (lead = 0)) ∧
      t.axes.pumpList = [h] ∧ t.budget.waiters = [] ∧
      t.budget.res.get a =
        (if start = 0 then .run (s.axisField a AxisTable.runRes) else .start (s.axisField a AxisTable.startRes)) ∧
      (∀ j g, j < 2 → groupOf (s.axisField a (AxisTable.ovrGroup j)) = some g → s.groups[g].stack.length < 4 →
        ∃ o ∈ t.groups[g].stack, o.source = axisSource a ∧ o.lock = true) ∧
      Changes ([.intake, .axis a, .pumpList, .valves, .groups] ++ evaluated ++ published) s t

/-- A hydraulic start request that passes the checks but whose start reservation does not fit waits in STARTING at the tail
of the waiter list and of the pump list, with its start window running (R121, R140, R151). One that fits while the other
axis stands in the pump list is admitted and waits in STARTING behind it (R122, R151). With a window of 0 either is back in
IDLE at once, with NO_BUDGET or NO_PUMP in the reply too (R140, R141). Target already reached is judged by the position (log
entry 17). -/
def Obligations.HydraulicStartWaits : Prop :=
  ∀ (i : Instr) (l : List Byte) (pos : Position) (h : Hyd) (m : Motion) (target : Target) (s : State) (r : Request)
    (rest : List Request), HydStart i l pos h m target → s.Calm → s.Head r rest → r.kind = .command → r.payload = l →
    let a := hydAxis h
    (s.axis a).pos = pos → s.fitted a = true → s.axes.latch = false → (s.axis a).phase = .idle →
    pos ≠ target.position → s.blocked m = false → h ∉ s.axes.pumpList →
    ((¬ s.fits a ∨ s.axes.pumpList ≠ []) → s.axisField a AxisTable.window ≠ 0 →
      ∃ t, exec i s = .next t ∧ t.exe.intake = rest ∧ Answered s t r .accepted [] ∧
        (∃ adm : Bool, (adm = true ↔ s.fits a) ∧ t.axis a = { s.axis a with
          phase := .starting, dir := some m, target := some target, admitted := adm
          window := some (s.axisField a AxisTable.window) }) ∧
        (¬ s.fits a → t.budget.waiters = [a]) ∧
        (s.fits a → t.budget.waiters = [] ∧ t.budget.res.get a = .start (s.axisField a AxisTable.startRes)) ∧
        t.axes.pumpList = s.axes.pumpList ++ [h] ∧
        Changes ([.intake, .axis a, .pumpList] ++ evaluated ++ published) s t) ∧
    ((¬ s.fits a ∨ s.axes.pumpList ≠ []) → s.axisField a AxisTable.window = 0 →
      ∃ (t : State) (res : Result) (last : LastResult), exec i s = .next t ∧ t.exe.intake = rest ∧ Answered s t r res [] ∧
        (¬ s.fits a → res = .noBudget ∧ last = .noBudget) ∧ (s.fits a → res = .noPump ∧ last = .noPump) ∧
        (t.axis a).phase = .idle ∧ (t.axis a).dir = none ∧ (t.axis a).last = last ∧ t.budget.waiters = [] ∧
        t.budget.res.get a = .none ∧ t.axes.pumpList = s.axes.pumpList ∧
        Changes (.intake :: axisParts a ++ evaluated ++ published) s t)

/-- The checks of a windlass start request, in order, each with its answer, BUSY while a commit is pending among them
(R83); a bus request during a foot run is answered BUSY (R138, R159, R164). Nothing but the executor's own state changes. -/
def Obligations.WindlassStartRefused : Prop :=
  ∀ (i : Instr) (l : List Byte) (mode : WindlassMode) (m : Motion) (n : Nat) (res : Result) (s : State) (r : Request)
    (rest : List Request), WindlassStart i l mode m n → s.Still → s.Head r rest → r.kind = .command → r.payload = l →
    (let x := s.axis .windlass
     let past3 := s.fitted .windlass = true ∧ s.axes.latch = false ∧ x.phase ≠ .faulted
     let past4 := past3 ∧ s.store.commitPending = false
     let reached := (m = .wHaul ∧ s.input homeInput = true) ∨ (mode = .payoutTo ∧ min n s.rode ≤ s.wl.counter)
     s.fitted .windlass = false ∧ res = .badArg ∨
     s.fitted .windlass = true ∧ s.axes.latch = true ∧ res = .faulted ∨
     s.fitted .windlass = true ∧ s.axes.latch = false ∧ x.phase = .faulted ∧ res = .faulted ∨
     past3 ∧ s.store.commitPending = true ∧ res = .busy ∨
     past4 ∧ s.footRun = true ∧ res = .busy ∨
     past4 ∧ x.phase = .stopping ∧ res = .busy ∨
     past4 ∧ (x.phase = .starting ∨ x.phase = .running) ∧ x.dir ≠ some m ∧ res = .busy ∨
     past4 ∧ x.phase = .idle ∧ reached ∧ res = .ok ∨
     past4 ∧ x.phase = .idle ∧ ¬ reached ∧ s.blocked m = true ∧ res = .noPermit) →
    ∃ t, exec i s = .next t ∧ t.exe.intake = rest ∧ Answered s t r res [] ∧ Changes (.intake :: published) s t

/-- A windlass start request that passes the checks, with its start reservation within the limit and no reversal pause
against it, enters RUNNING at once with its mode, its duty target by R160, and its stall, ramp and keep-alive timers
(R140, R142, R159, R160, R162, R165); with ramp time 0 it drives at its duty target at once (R160, R171). One that does not
fit, or that the reversal pause holds, waits in STARTING, admitted in the second case (R165); with a start window of 0 it is
back in IDLE at once, with NO_BUDGET or BUSY in the reply too (R140, R165). A mode other than PAYOUT_TO holds the pay-out
target 0 (log entry 22). -/
def Obligations.WindlassStartRuns : Prop :=
  ∀ (i : Instr) (l : List Byte) (mode : WindlassMode) (m : Motion) (n : Nat) (s : State) (r : Request)
    (rest : List Request), WindlassStart i l mode m n → s.Calm → s.Head r rest → r.kind = .command → r.payload = l →
    let a := Axis.windlass
    let target := if mode = .payoutTo then min n s.rode else 0
    let keep := if mode = .manualHaul ∨ mode = .manualPayout then some (s.axisField a AxisTable.keepAlive) else none
    s.fitted a = true → s.axes.latch = false → (s.axis a).phase = .idle → s.blocked m = false →
    (m = .wHaul → s.input homeInput = false) → (mode = .payoutTo → s.wl.counter < target) →
    let free := s.wl.pause = none ∨ s.wl.lastDir = some m ∨ s.wl.lastDir = none
    let dutyTarget := if m = .wPayout then s.axisField a AxisTable.payoutDuty
      else if s.wl.referenced = true ∧ s.axisField a AxisTable.slowZone < s.wl.counter then
        s.axisField a AxisTable.haulDuty
      else s.axisField a AxisTable.slowDuty
    (s.fits a → free → s.wl.duty = 0 → s.axisField a AxisTable.rampTime = 0 → s.inp.overActive = false →
      ∃ t, exec i s = .next t ∧ t.exe.intake = rest ∧ Answered s t r .accepted [] ∧
        (t.axis a).phase = .running ∧ (t.axis a).dir = some m ∧ t.wl.mode = mode ∧ t.wl.duty = dutyTarget ∧
        t.wl.dutyTarget = dutyTarget ∧
        (dutyTarget ≠ 0 → t.wl.lastDir = some m ∧ t.out.bridge.dir = some m ∧ t.out.bridge.count = 0) ∧
        t.budget.waiters = [] ∧ Changes ([.intake, .axis a, .windlass, .bridge, .groups] ++ evaluated ++ published) s t) ∧
    (s.fits a → free → s.wl.duty = 0 → s.axisField a AxisTable.rampTime ≠ 0 →
      ∃ t, exec i s = .next t ∧ t.exe.intake = rest ∧ Answered s t r .accepted [] ∧
        (t.axis a).phase = .running ∧ (t.axis a).dir = some m ∧ (t.axis a).admitted = true ∧ (t.axis a).window = none ∧
        t.wl = { s.wl with
          mode := mode, payTarget := target, keepAlive := keep, ramp := some 10
          stall := some (s.axisField a AxisTable.stallTime)
          dutyTarget := dutyTarget } ∧
        t.budget.waiters = [] ∧ Changes ([.intake, .axis a, .windlass, .groups] ++ evaluated ++ published) s t) ∧
    (¬ s.fits a ∨ ¬ free → s.axisField a AxisTable.window ≠ 0 →
      ∃ t, exec i s = .next t ∧ t.exe.intake = rest ∧ Answered s t r .accepted [] ∧
        (t.axis a).phase = .starting ∧ (t.axis a).dir = some m ∧ ((t.axis a).admitted = true ↔ s.fits a) ∧
        (t.axis a).window = some (s.axisField a AxisTable.window) ∧ (¬ s.fits a → t.budget.waiters = [a]) ∧
        (s.fits a → t.budget.waiters = [] ∧ t.budget.res.get a = .start (s.axisField a AxisTable.startRes)) ∧
        t.wl = { s.wl with mode := mode, payTarget := target, keepAlive := keep } ∧
        Changes ([.intake, .axis a, .windlass] ++ evaluated ++ published) s t) ∧
    (¬ s.fits a ∨ ¬ free → s.axisField a AxisTable.window = 0 →
      ∃ (t : State) (res : Result) (last : LastResult), exec i s = .next t ∧ t.exe.intake = rest ∧ Answered s t r res [] ∧
        (¬ s.fits a → res = .noBudget ∧ last = .noBudget) ∧ (s.fits a → res = .busy ∧ last = .busy) ∧
        (t.axis a).phase = .idle ∧ (t.axis a).dir = none ∧ (t.axis a).last = last ∧ t.wl.mode = .none ∧
        t.wl.keepAlive = none ∧ t.budget.waiters = [] ∧ t.budget.res.get a = .none ∧
        Changes (.intake :: axisParts a ++ evaluated ++ published) s t)

/-! ### Stops, clears and the e-stop -/

/-- AXIS_STOP and ALL_STOP (R145): a STARTING axis returns to IDLE with STOPPED; a RUNNING hydraulic axis enters STOPPING
with its pump off and its valve lag running (R143, R150); a RUNNING windlass ramps down (R160, R161); an axis in any other
state is left. The IDLE entry releases the overrides of the axis (R106, R144), and in a foot run the held switch is marked
spent (R163). The reply is OK. -/
def Obligations.StopsEndMotion : Prop :=
  ∀ (i : Instr) (a : Axis) (s : State) (r : Request) (rest : List Request), s.Head r rest → r.kind = .command →
    (∃ l, i = .axisStop ∧ r.payload = 24 :: BitVec.ofNat 8 (axisCode a) :: l ∨ i = .allStop ∧ r.payload = 25 :: l) →
    s.store.commitPending = false →
    ∃ t, exec i s = .next t ∧ t.exe.intake = rest ∧ Answered s t r .ok [] ∧
      Changes (.intake :: moving ++ published) s t ∧
      ((s.axis a).phase = .starting →
        (t.axis a).phase = .idle ∧ (t.axis a).dir = none ∧ (t.axis a).last = .stopped ∧ t.noOverrides a) ∧
      (a = .windlass → s.footRun = true → t.wl.spentUp = (s.wl.spentUp || s.input footUpInput) ∧
        t.wl.spentDown = (s.wl.spentDown || s.input footDownInput)) ∧
      ((s.axis a).phase = .idle ∨ (s.axis a).phase = .faulted ∨ (s.axis a).phase = .stopping →
        (t.axis a).phase = (s.axis a).phase ∧ (t.axis a).dir = (s.axis a).dir ∧ (t.axis a).last = (s.axis a).last ∧
        (t.axis a).cause = (s.axis a).cause) ∧
      (∀ h, a = hydAxis h → (s.axis a).phase = .running → s.axisField a AxisTable.lag ≠ 0 →
        (t.axis a).phase = .stopping ∧ (t.axis a).last = .stopped ∧ (t.axis a).dir = (s.axis a).dir ∧
        (t.axis a).lag = some (s.axisField a AxisTable.lag) ∧ (t.axis a).lead = none ∧ (t.axis a).travel = none ∧
        (t.axis a).startTime = none ∧ (s.noneStarting → t.out.pump = false)) ∧
      (a = .windlass → (s.axis a).phase = .running → s.axisField a AxisTable.rampTime ≠ 0 → s.wl.duty ≠ 0 →
        (t.axis a).phase = .stopping ∧ (t.axis a).last = .stopped ∧ t.wl.dutyTarget = 0 ∧ t.wl.duty = s.wl.duty ∧
        t.wl.stall = none)

/-- CLEAR_FAULT brings a FAULTED axis whose cause no longer stands to IDLE, its last result kept and its cause NONE, and is
answered FAULTED while a conflict or the over-current stands (R147); the axis's overrides leave their stacks (R106, R144).
CLEAR_ESTOP clears the latch and releases the e-stop
override, and is answered FAULTED while the input stands active (R154). The CLEAR_FAULT that brings the last axis outside
IDLE to IDLE applies a pending commit (R81, R83). -/
def Obligations.ClearsFaultAndEstop : Prop :=
  (∀ (s : State) (r : Request) (rest : List Request) (a : Axis) (l : List Byte), s.Quiet → s.Head r rest →
    r.kind = .command → r.payload = 26 :: BitVec.ofNat 8 (axisCode a) :: l → s.store.commitPending = true →
    (s.axis a).phase = .faulted → (∀ b, b ≠ a → (s.axis b).phase = .idle) → s.fitted a = true →
    s.causeStands a = false →
    ∃ t, exec .clearFault s = .next t ∧ t.exe.intake = rest ∧ Answered s t r .ok [] ∧ CommitApplied s t) ∧
  ∀ (s : State) (r : Request) (rest : List Request), s.Calm → s.Head r rest → r.kind = .command →
    (∀ (a : Axis) (l : List Byte), r.payload = 26 :: BitVec.ofNat 8 (axisCode a) :: l →
      let stands := (s.axis a).cause = .overcurrent ∧ s.inp.overActive = true ∨
        (s.axis a).cause = .sensor ∧ ∃ h, a = hydAxis h ∧ s.conflict h = true
      ((s.axis a).phase = .faulted → s.fitted a = true → ¬ stands →
        ∃ t, exec .clearFault s = .next t ∧ t.exe.intake = rest ∧ Answered s t r .ok [] ∧ (t.axis a).phase = .idle ∧
          (t.axis a).cause = .none ∧ (t.axis a).last = (s.axis a).last ∧ (t.axis a).dir = none ∧
          (∀ g : Fin 12, t.groups[g].stack = s.groups[g].stack.filter fun o => o.source != axisSource a) ∧
          Changes (.intake :: axisParts a ++ evaluated ++ published) s t) ∧
      ((s.axis a).phase = .faulted → s.fitted a = true → stands →
        ∃ t, exec .clearFault s = .next t ∧ t.exe.intake = rest ∧ Answered s t r .faulted [] ∧
          Changes (.intake :: published) s t) ∧
      ((s.axis a).phase ≠ .faulted ∨ s.fitted a = false →
        ∃ t, exec .clearFault s = .next t ∧ t.exe.intake = rest ∧ Answered s t r .ok [] ∧
          Changes (.intake :: published) s t)) ∧
    (∀ l : List Byte, r.payload = 27 :: l →
      (s.axes.latch = true → s.inp.estopActive = false →
        ∃ t, exec .clearEstop s = .next t ∧ t.exe.intake = rest ∧ Answered s t r .ok [] ∧ t.axes.latch = false ∧
          (∀ g : Fin 12, t.groups[g].stack = s.groups[g].stack.filter fun o => o.source != 19) ∧
          Changes (.intake :: .latch :: .groups :: evaluated ++ published) s t) ∧
      (s.axes.latch = true → s.inp.estopActive = true →
        ∃ t, exec .clearEstop s = .next t ∧ t.exe.intake = rest ∧ Answered s t r .faulted [] ∧
          Changes (.intake :: published) s t) ∧
      (s.axes.latch = false →
        ∃ t, exec .clearEstop s = .next t ∧ t.exe.intake = rest ∧ Answered s t r .ok [] ∧
          Changes (.intake :: published) s t))

/-- A latching of the e-stop (R153): every axis under way comes to IDLE at once with its outputs off, every fitted axis that
is not FAULTED takes last result ESTOP, the waiters and the pump list are emptied, and ESTOP is raised; the overrides of the
axes brought to IDLE leave (R144), and that of source 19 is pushed into the e-stop group with the ZONE level, priority 7 and
a set lock, or at a full stack evicts or is refused, with OVERRIDE_EVICTED (R103, R106). With the latch set an
activation raises ESTOP and nothing else, where the input stood active before too (log entry 5). The fall of the input leaves
the latch (R154). The over-current input turning active while the bridge drives faults the windlass with cause OVERCURRENT,
its bridge off; any other change of its level is only taken (R146, R162, R174). -/
def Obligations.EstopAndOvercurrentStopMotion : Prop :=
  (∀ s : State, s.power = .running →
     (s.axes.latch = false → s.MotionSafe → s.store.commitPending = false →
       ∃ t, exec .estopActivation s = .next t ∧ t.axes.latch = true ∧ t.inp.estopActive = true ∧ t.raised .estop = true ∧
         (∀ a, (s.axis a).phase ≠ .faulted → (t.axis a).phase = .idle ∧
           (s.fitted a = true → (t.axis a).last = .estop)) ∧
         (∀ a, (s.axis a).phase = .faulted → (t.axis a).phase = .faulted ∧ (t.axis a).last = (s.axis a).last) ∧
         t.out.valves = (false, false, false, false, false) ∧ t.out.bridge.dir = none ∧ t.wl.duty = 0 ∧
         t.budget.waiters = [] ∧ (∀ a, t.budget.res.get a = .none) ∧ t.axes.pumpList = [] ∧
         (∀ a, (s.axis a).busy → t.noOverrides a) ∧
         (∀ g : Fin 12, groupOf (s.zone Zone.estopGroup) = some g →
           let o : Override := { source := 19, priority := 7, level := s.zone Zone.estopLevel, lock := true }
           (s.groups[g].stack.length < 4 ∨ hasSource 19 s.groups[g].stack = true → o ∈ t.groups[g].stack) ∧
           (∀ front low, s.groups[g].stack = front ++ [low] → front.length = 3 →
             (∀ y ∈ s.groups[g].stack, y.source < 16) → t.raised .overrideEvicted = true ∧
             (low.priority < 7 ∧ low.lock = false → o ∈ t.groups[g].stack ∧ (low ∉ front → low ∉ t.groups[g].stack)) ∧
             (7 ≤ low.priority ∨ low.lock = true → t.groups[g].stack = s.groups[g].stack))) ∧
         (∀ g : Fin 12, groupOf (s.zone Zone.estopGroup) ≠ some g → (∀ y ∈ s.groups[g].stack, y.source < 16) →
           t.groups[g] = s.groups[g]) ∧
         Changes ([.inputs, .latch] ++ moving ++ published) s t) ∧
     (s.axes.latch = true → s.Calm →
       ∃ t, exec .estopActivation s = .next t ∧ t.raised .estop = true ∧ t.inp.estopActive = true ∧
         Changes (.inputs :: published) s t) ∧
     ∃ t, exec .estopFall s = .next t ∧ t.inp.estopActive = false ∧ Changes [.inputs] s t) ∧
  (∀ s : State, s.power = .running →
     ((s.axis .windlass).phase = .running ∨ (s.axis .windlass).phase = .stopping → 0 < s.wl.duty →
       s.store.commitPending = false →
       ∃ t, exec (.overcurrentChange true) s = .next t ∧ (t.axis .windlass).phase = .faulted ∧
         (t.axis .windlass).cause = .overcurrent ∧ (t.axis .windlass).last = .fault ∧ t.wl.duty = 0 ∧
         t.out.bridge.dir = none ∧ t.raised .faultW = true ∧ t.inp.overActive = true ∧
         Changes (.inputs :: moving ++ published) s t) ∧
     ((s.axis .windlass).phase = .idle ∨ s.wl.duty = 0 →
       ∃ t, exec (.overcurrentChange true) s = .next t ∧ t.inp.overActive = true ∧ Changes [.inputs] s t) ∧
     ∃ t, exec (.overcurrentChange false) s = .next t ∧ t.inp.overActive = false ∧ Changes [.inputs] s t)

/-! ### Timers of the axes and the windlass drive -/

/-- The expiry of a start window brings a STARTING axis to IDLE with the result for what it lacks (R141, R165), and no stack
then holds an override of it (R106, R144). The expiry of
the start time switches a RUNNING axis's reservation to Rr (R120, R142). -/
def Obligations.StartTimersExpire : Prop :=
  ∀ (a : Axis) (s : State),
    ((s.axis a).phase = .starting → (s.axis a).window.isSome = true → s.store.commitPending = false →
      ∃ t, exec (.startWindowExpiry a) s = .next t ∧ (t.axis a).phase = .idle ∧ (t.axis a).dir = none ∧
        (t.axis a).window = none ∧ t.noOverrides a ∧
        (t.axis a).last =
          (if (s.axis a).admitted = false then .noBudget else if a = .windlass then .busy else .noPump) ∧
        Changes (moving ++ published) s t) ∧
    (s.Calm → (s.axis a).phase = .running → (s.axis a).startTime.isSome = true →
      ∃ t, exec (.startTimeExpiry a) s = .next t ∧ t.axis a = { s.axis a with startTime := none } ∧
        t.budget.res.get a = .run (s.axisField a AxisTable.runRes) ∧
        (∀ b, b ≠ a → t.budget.res.get b = s.budget.res.get b) ∧
        Changes (.axis a :: evaluated ++ published) s t)

/-- The valve lead's expiry closes the pump contactor; the valve lag's closes the valve and brings IDLE with the result
the stop had, and the axis's overrides leave (R106); the travel timeout's faults the axis with cause TIMEOUT, its outputs
off at once (R144, R146, R150, R151). Where the other axis, admitted, waits in STARTING behind it, its release of the pump
grants the pump to that axis, which enters RUNNING (R141, R142, R151). A lag expiry that brings the last axis to IDLE
applies a pending commit (R81, R83). -/
def Obligations.HydraulicTimersExpire : Prop :=
  ∀ (h : Hyd) (s : State),
    let a := hydAxis h
    let closed := fun t : State => match h with
      | .platform => t.out.platformUp = false ∧ t.out.platformDown = false
      | .hatch => t.out.hatchOpen = false ∧ t.out.hatchClose = false
    ((s.axis a).phase = .running → (s.axis a).lead.isSome = true →
      ∃ t, exec (.valveLeadExpiry h) s = .next t ∧ t.axis a = { s.axis a with lead := none } ∧
        t.out = { s.out with pump := true } ∧ Changes [.axis a, .valves] s t) ∧
    (s.Calm → (s.axis a).phase = .stopping → (s.axis a).lag.isSome = true →
      ∃ t, exec (.valveLagExpiry h) s = .next t ∧ (t.axis a).phase = .idle ∧ (t.axis a).dir = none ∧
        (t.axis a).last = (s.axis a).last ∧ closed t ∧ t.axes.pumpList = s.axes.pumpList.erase h ∧
        (∀ g : Fin 12, t.groups[g].stack = s.groups[g].stack.filter fun o => o.source != axisSource a) ∧
        t.budget.res.get a = .none ∧ Changes (axisParts a ++ evaluated ++ published) s t) ∧
    (∀ (h' : Hyd) (m : Motion) (target : Target) (i : Instr), h' ≠ h → s.power = .running →
      s.store.commitPending = false → s.axes.pumpList = [h, h'] →
      (i = .valveLagExpiry h ∧ (s.axis a).phase = .stopping ∧ (s.axis a).lag.isSome = true ∨
        i = .travelTimeoutExpiry h ∧ (s.axis a).phase = .running ∧ (s.axis a).travel.isSome = true) →
      let b := hydAxis h'
      (s.axis b).phase = .starting → (s.axis b).admitted = true → (s.axis b).dir = some m → m.axis = b →
      (s.axis b).target = some target → s.conflict h' = false → s.input (targetSensor target) = false →
      ∃ t, exec i s = .next t ∧ t.axes.pumpList = [h'] ∧ (t.axis b).phase = .running ∧ (t.axis b).dir = some m ∧
        (t.axis b).window = none ∧ (t.axis b).travel.isSome = true ∧
        ((t.axis a).phase = .idle ∨ (t.axis a).phase = .faulted) ∧ closed t ∧ Changes (moving ++ published) s t) ∧
    (s.Quiet → s.store.commitPending = true → (∀ b, b ≠ a → (s.axis b).phase = .idle) → (s.axis a).phase = .stopping →
      (s.axis a).lag.isSome = true → ∃ t, exec (.valveLagExpiry h) s = .next t ∧ CommitApplied s t) ∧
    (s.Calm → (s.axis a).phase = .running → (s.axis a).travel.isSome = true →
      ∃ t, exec (.travelTimeoutExpiry h) s = .next t ∧ (t.axis a).phase = .faulted ∧ (t.axis a).cause = .timeout ∧
        (t.axis a).last = .fault ∧ (t.axis a).dir = (s.axis a).dir ∧ closed t ∧
        (s.holdsPump h = true → t.out.pump = false) ∧ t.axes.pumpList = s.axes.pumpList.erase h ∧
        t.raised (faultEvent a) = true ∧ t.groups = s.groups ∧ Changes (axisParts a ++ evaluated ++ published) s t)

/-- A keep-alive that expires ends a manual run or start with KEEPALIVE, ramped or, with ramp time or duty 0, at once (R160,
R161); in STOPPING it only stops (log entry 22). A stall expiry faults a driving windlass and restarts at duty 0 (R162). The
end of the reversal pause lets an admitted STARTING windlass enter RUNNING, and changes nothing else where none waits
(R165). -/
def Obligations.WindlassTimersExpire : Prop :=
  ∀ s : State,
    let x := s.axis .windlass
    let manual := s.wl.mode = .manualHaul ∨ s.wl.mode = .manualPayout
    (s.store.commitPending = false → s.wl.keepAlive.isSome = true → manual →
      (x.phase = .starting → ∃ t, exec .keepAliveExpiry s = .next t ∧ (t.axis .windlass).phase = .idle ∧
        (t.axis .windlass).last = .keepAlive ∧ t.wl.mode = .none ∧ t.wl.keepAlive = none ∧
        Changes (moving ++ published) s t) ∧
      (x.phase = .running → s.axisField .windlass AxisTable.rampTime ≠ 0 → s.wl.duty ≠ 0 →
        ∃ t, exec .keepAliveExpiry s = .next t ∧ (t.axis .windlass).phase = .stopping ∧
          (t.axis .windlass).last = .keepAlive ∧ t.wl.dutyTarget = 0 ∧ t.wl.duty = s.wl.duty ∧ t.wl.keepAlive = none ∧
          Changes (moving ++ published) s t) ∧
      (x.phase = .running → s.axisField .windlass AxisTable.rampTime = 0 ∨ s.wl.duty = 0 →
        ∃ t, exec .keepAliveExpiry s = .next t ∧ (t.axis .windlass).phase = .idle ∧
          (t.axis .windlass).last = .keepAlive ∧ t.wl.duty = 0 ∧ t.wl.mode = .none ∧ t.wl.keepAlive = none ∧
          Changes (moving ++ published) s t)) ∧
    (s.Calm → s.wl.keepAlive.isSome = true → x.phase = .stopping →
      exec .keepAliveExpiry s = .next { s with wl := { s.wl with keepAlive := none } }) ∧
    (x.phase = .running → s.wl.stall.isSome = true → s.wl.duty = 0 →
      exec .stallExpiry s =
        .next { s with wl := { s.wl with stall := some (s.axisField .windlass AxisTable.stallTime) } }) ∧
    (s.Calm → x.phase = .running → s.wl.stall.isSome = true → s.wl.duty ≠ 0 →
      ∃ t, exec .stallExpiry s = .next t ∧ (t.axis .windlass).phase = .faulted ∧ (t.axis .windlass).cause = .stall ∧
        t.wl.duty = 0 ∧ t.out.bridge.dir = none ∧ t.raised .faultW = true ∧
        Changes (axisParts .windlass ++ evaluated ++ published) s t) ∧
    (s.Calm → s.wl.pause.isSome = true →
      exec .reversalPauseExpiry s = .next { s with wl := { s.wl with pause := none } }) ∧
    (s.store.commitPending = false → s.wl.pause.isSome = true → x.phase = .starting → x.admitted = true →
      s.wl.duty = 0 → s.axisField .windlass AxisTable.rampTime ≠ 0 → s.windlassReached s.wl.mode s.wl.payTarget = false →
      ∃ t, exec .reversalPauseExpiry s = .next t ∧ (t.axis .windlass).phase = .running ∧
        (t.axis .windlass).dir = x.dir ∧ (t.axis .windlass).window = none ∧ t.wl.pause = none ∧ t.wl.duty = 0 ∧
        t.wl.ramp = some 10 ∧ t.wl.stall = some (s.axisField .windlass AxisTable.stallTime) ∧
        Changes (moving ++ published) s t)

/-- A ramp step moves the applied duty toward the duty target by the greater of 1 and 10,000 by the ramp time, not past it
(R160); the step in RUNNING that leaves 0 begins to drive the bridge in the windlass's direction at count 0 of a cycle,
which is then the last driven direction (R160, R170, R171), and with the over-current input active faults the windlass
(R162); in STOPPING the step that reaches 0 turns the bridge off and brings IDLE with the result the stop had (R160, R161,
R171). -/
def Obligations.RampStepMovesTheDuty : Prop :=
  ∀ s : State, s.Calm → s.wl.ramp.isSome = true → s.axisField .windlass AxisTable.rampTime ≠ 0 →
    let delta := max 1 (10000 / s.axisField .windlass AxisTable.rampTime)
    let duty := if s.wl.duty ≤ s.wl.dutyTarget then min s.wl.dutyTarget (s.wl.duty + delta)
      else max s.wl.dutyTarget (s.wl.duty - delta)
    ((s.axis .windlass).phase = .running ∨ (s.axis .windlass).phase = .stopping → s.wl.duty ≠ 0 → duty ≠ 0 →
      exec .rampStep s = .next { s with wl := { s.wl with duty := duty, ramp := some 10 } }) ∧
    ((s.axis .windlass).phase = .stopping → s.wl.duty ≠ 0 → duty = 0 →
      ∃ t, exec .rampStep s = .next t ∧ (t.axis .windlass).phase = .idle ∧
        (t.axis .windlass).last = (s.axis .windlass).last ∧ t.wl.duty = 0 ∧ t.wl.mode = .none ∧ t.out.bridge.dir = none ∧
        Changes (axisParts .windlass ++ evaluated ++ published) s t) ∧
    ((s.axis .windlass).phase = .running → s.wl.duty = 0 → s.wl.dutyTarget ≠ 0 → s.inp.overActive = false →
      ∃ t, exec .rampStep s = .next t ∧
        t.wl = { s.wl with duty := min s.wl.dutyTarget delta, ramp := some 10, lastDir := (s.axis .windlass).dir } ∧
        t.out.bridge =
          { dir := (s.axis .windlass).dir, count := 0
            high := min s.wl.dutyTarget delta * (10000000 / (s.axisField .windlass AxisTable.frequency * 1000)) / 1000 } ∧
        Changes [.windlass, .bridge] s t) ∧
    ((s.axis .windlass).phase = .running → s.wl.duty = 0 → s.wl.dutyTarget ≠ 0 → s.inp.overActive = true →
      ∃ t, exec .rampStep s = .next t ∧ (t.axis .windlass).phase = .faulted ∧ (t.axis .windlass).cause = .overcurrent ∧
        t.wl.duty = 0 ∧ t.out.bridge.dir = none ∧ t.raised .faultW = true ∧
        Changes (axisParts .windlass ++ evaluated ++ published) s t)

/-! ### The chain counter and the local inputs -/

/-- CHAIN_SET sets the counter, held to the rode length, and the referenced flag, and is BUSY during a foot run (R158,
R164). A gypsy pulse moves the counter by the pocket length, down in a haul and else up, between 0 and the rode length
(R157). Either stops a run in PAYOUT_TO whose target the counter then reaches or passes, with REACHED (R161), and forms
the duty target of another run afresh: a haul at or below the slow zone, or not referenced, has the slow duty (R160). A
pulse restarts the stall timer of a run (R162). The anchor-home input turning active sets the counter to 0, referenced,
and ends a haul at once (R158, R161). That a windlass that is not fitted follows CHAIN_SET and the home input too is log
entry 19, and that a pulse counts with the input already active is log entry 8. -/
def Obligations.ChainCounterFollowsTheChain : Prop :=
  ∀ s : State, s.power = .running →
    let a := Axis.windlass
    let x := s.axis a
    let under := x.phase = .running ∧ (x.dir = some .wHaul ∨ x.dir = some .wPayout) ∧ s.axisField a AxisTable.rampTime ≠ 0
    let dutyTarget := fun (referenced : Bool) (counter : Nat) =>
      if x.dir = some .wPayout then s.axisField a AxisTable.payoutDuty
      else if referenced = true ∧ s.axisField a AxisTable.slowZone < counter then s.axisField a AxisTable.haulDuty
      else s.axisField a AxisTable.slowDuty
    let reached := fun (counter : Nat) => s.wl.mode = .payoutTo ∧ s.wl.payTarget ≤ counter
    let stopped := fun (t : State) =>
      (t.axis a).last = .reached ∧
      (s.wl.duty ≠ 0 → (t.axis a).phase = .stopping ∧ t.wl.dutyTarget = 0 ∧ t.wl.duty = s.wl.duty ∧ t.wl.stall = none) ∧
      (s.wl.duty = 0 → (t.axis a).phase = .idle)
    (∀ (r : Request) (rest : List Request) (u v w : Byte) (l : List Byte), s.Calm → s.Head r rest → r.kind = .command →
      r.payload = 12 :: u :: v :: w :: l →
      let n := min (u.toNat * 65536 + v.toNat * 256 + w.toNat) (s.axisField a AxisTable.rode)
      (s.footRun = false → ∃ t, exec .chainSet s = .next t ∧ t.exe.intake = rest ∧ Answered s t r .ok [] ∧
        t.wl.counter = n ∧ t.wl.referenced = true ∧ Changes (.intake :: moving ++ published) s t ∧
        (under → reached n → stopped t) ∧
        (under → ¬ reached n → (t.axis a).phase = .running ∧
          t.wl = { s.wl with counter := n, referenced := true, dutyTarget := dutyTarget true n }) ∧
        (x.phase = .idle → Changes (.intake :: .windlass :: published) s t)) ∧
      (s.footRun = true → ∃ t, exec .chainSet s = .next t ∧ t.exe.intake = rest ∧ Answered s t r .busy [] ∧
        Changes (.intake :: published) s t)) ∧
    (s.store.commitPending = false →
      let n :=
        if x.dir = some .wHaul ∧ (x.phase = .running ∨ x.phase = .stopping) then
          s.wl.counter - s.axisField a AxisTable.pocket
        else min (s.wl.counter + s.axisField a AxisTable.pocket) (s.axisField a AxisTable.rode)
      let stall := s.wl.stall.map fun _ => s.axisField a AxisTable.stallTime
      ∃ t, exec .gypsyPulse s = .next t ∧ t.wl.counter = n ∧ t.wl.referenced = s.wl.referenced ∧
        t.input gypsyInput = true ∧
        (under → n ≠ s.wl.counter → reached n → stopped t) ∧
        (under → n ≠ s.wl.counter → ¬ reached n → (t.axis a).phase = .running ∧
          t.wl = { s.wl with counter := n, stall := stall, dutyTarget := dutyTarget s.wl.referenced n }) ∧
        (under → n = s.wl.counter → (t.axis a).phase = .running ∧ t.wl = { s.wl with stall := stall }) ∧
        Changes (.inputs :: moving ++ published) s t) ∧
    (s.store.commitPending = false → s.input homeInput = false →
      ∃ t, exec (.homeInputChange true) s = .next t ∧ t.wl.counter = 0 ∧ t.wl.referenced = true ∧
        t.input homeInput = true ∧
        ((s.axis .windlass).dir = some .wHaul →
          (s.axis .windlass).phase = .running ∨ (s.axis .windlass).phase = .stopping → (t.axis .windlass).phase = .idle) ∧
        (s.noneStarting → (t.axis .windlass).pos = if s.fitted .windlass then .home else .out) ∧
        Changes ([.inputs, .choice, .permits] ++ moving ++ published) s t) ∧
    (s.store.commitPending = false → s.input homeInput = true →
      ∃ t, exec (.homeInputChange false) s = .next t ∧ t.wl.counter = s.wl.counter ∧
        t.wl.referenced = s.wl.referenced ∧ t.input homeInput = false ∧
        (s.noneStarting → (t.axis .windlass).pos = .out) ∧
        Changes ([.inputs, .choice, .permits] ++ moving ++ published) s t)

/-- A change of the end sensors gives the position of the platform or the hatch (R148): a sensor's place while it alone is
active, BETWEEN while none is once one has been seen, UNKNOWN while two are. Two active in motion fault the axis with cause
SENSOR (R148), and the sensor of its target turning active stops it (R149); with a valve lag the stop is a STOPPING. -/
def Obligations.EndSensorsGiveThePosition : Prop :=
  (∀ (up deck down : Bool) (s : State), s.Calm → s.fitted .platform = true →
     ∃ t, exec (.sensorChange (.platform up deck down)) s = .next t ∧
       (∀ i : Fin 13, t.input i = if i = 0 then up else if i = 1 then deck else if i = 2 then down else s.input i) ∧
       ((t.axis .platform).pos = match up, deck, down with
         | true, false, false => .up
         | false, true, false => .deck
         | false, false, true => .down
         | false, false, false => if (s.axis .platform).seen then .between else .unknown
         | _, _, _ => .unknown) ∧
       (t.axis .platform).seen = ((s.axis .platform).seen || up || deck || down) ∧
       (s.axisField .platform AxisTable.lag ≠ 0 →
         (s.axis .platform).phase = .running ∨ (s.axis .platform).phase = .stopping →
         ((up && deck) || (deck && down) || (up && down)) = true →
         (t.axis .platform).phase = .faulted ∧ (t.axis .platform).cause = .sensor) ∧
       (∀ target, s.axisField .platform AxisTable.lag ≠ 0 → (s.axis .platform).phase = .running →
         (s.axis .platform).target = some target → s.input (targetSensor target) = false →
         (target = .up ∧ (up, deck, down) = (true, false, false) ∨ target = .deck ∧ (up, deck, down) = (false, true, false) ∨
           target = .down ∧ (up, deck, down) = (false, false, true)) →
         (t.axis .platform).phase = .stopping) ∧
       Changes ([.inputs, .choice, .permits] ++ moving ++ published) s t) ∧
  (∀ (opened closed : Bool) (s : State), s.Calm → s.fitted .hatch = true →
     ∃ t, exec (.sensorChange (.hatch opened closed)) s = .next t ∧
       (∀ i : Fin 13, t.input i = if i = 3 then opened else if i = 4 then closed else s.input i) ∧
       ((t.axis .hatch).pos = match opened, closed with
         | true, false => .opened
         | false, true => .closed
         | false, false => if (s.axis .hatch).seen then .between else .unknown
         | true, true => .unknown) ∧
       (t.axis .hatch).seen = ((s.axis .hatch).seen || opened || closed) ∧
       (s.axisField .hatch AxisTable.lag ≠ 0 → (s.axis .hatch).phase = .running ∨ (s.axis .hatch).phase = .stopping →
         (opened && closed) = true → (t.axis .hatch).phase = .faulted ∧ (t.axis .hatch).cause = .sensor) ∧
       (∀ target, s.axisField .hatch AxisTable.lag ≠ 0 → (s.axis .hatch).phase = .running →
         (s.axis .hatch).target = some target → s.input (targetSensor target) = false →
         (target = .opened ∧ (opened, closed) = (true, false) ∨ target = .closed ∧ (opened, closed) = (false, true)) →
         (t.axis .hatch).phase = .stopping) ∧
       Changes ([.inputs, .choice, .permits] ++ moving ++ published) s t)

/-- The press of one foot switch on an IDLE windlass is a start request, UP for a haul and DOWN for a pay-out, which
enters RUNNING where its reservation fits and waits in STARTING where it does not (R138, R140, R142, R163); one that the
e-stop latch refuses marks the switch spent. In a command run it ends the run, STOPPING with STOPPED from RUNNING and IDLE
from STARTING, and marks the switch spent; in STOPPING it marks the switch spent alone (R164). With the other switch held
both are marked spent, and a foot run ends with RELEASED (R163). Both pressed at one sample make no press (R173). So where
no permit entry reads the foot switches. Where one does, it is evaluated at the new level, with the sets and their effect
on the hydraulic axes, and no windlass STARTING in a blocked motion or RUNNING in a stop-demand one goes on in it, in
whichever order the windlass drive and the permit unit take the change (R129 to R134). -/
def Obligations.FootPressStartsTheWindlass : Prop :=
  (∀ (f : Feet) (s : State), s.power = .running → s.store.commitPending = false → (∀ i ∈ feetInputs f, s.input i = false) →
    ∃ t, exec (.footPress f) s = .next t ∧ (∀ i : Fin 13, t.input i = (decide (i ∈ feetInputs f) || s.input i)) ∧
      EntriesTake s t (feetInputs f) true ∧
      ((∃ e, s.namesFeet f e = true) → (∀ h, PermitsAct s t (hydAxis h)) ∧
        (∀ m, (s.axis .windlass).dir = some m →
          (s.axis .windlass).phase = .starting ∧ t.blocked m = true ∨
            (s.axis .windlass).phase = .running ∧ inSet t.permits.stops m = true →
          (t.axis .windlass).dir ≠ some m ∨
            (t.axis .windlass).phase ≠ .starting ∧ (t.axis .windlass).phase ≠ .running)) ∧
      Changes ([.inputs, .choice, .permits] ++ moving ++ published) s t) ∧
  ∀ (f : Feet) (own other : Fin 13) (mode : WindlassMode) (m : Motion) (s : State), FootSide f own other mode m →
    s.power = .running → s.store.commitPending = false →
    (∀ e : Fin 24, s.namesFeet .both e = false) → s.input own = false →
    (s.Calm → s.input other = false → s.spent f = false → (s.axis .windlass).phase = .idle → s.wl.mode = .none →
      s.fitted .windlass = true →
      (s.axes.latch = false → s.blocked m = false → (m = .wHaul → s.input homeInput = false) → ¬ s.fits .windlass →
        s.axisField .windlass AxisTable.window ≠ 0 →
        ∃ t, exec (.footPress f) s = .next t ∧ t.input own = true ∧ (t.axis .windlass).phase = .starting ∧
          (t.axis .windlass).dir = some m ∧ t.wl.mode = mode ∧ t.spent f = false ∧ t.wl.keepAlive = none ∧
          t.budget.waiters = [.windlass] ∧
          Changes ([.inputs, .axis .windlass, .windlass] ++ evaluated ++ published) s t) ∧
      (s.axes.latch = false → s.blocked m = false → (m = .wHaul → s.input homeInput = false) → s.fits .windlass →
        s.wl.pause = none → s.wl.duty = 0 → s.axisField .windlass AxisTable.rampTime ≠ 0 →
        ∃ t, exec (.footPress f) s = .next t ∧ t.input own = true ∧ (t.axis .windlass).phase = .running ∧
          (t.axis .windlass).dir = some m ∧ t.wl.mode = mode ∧ t.wl.keepAlive = none ∧ t.wl.duty = 0 ∧
          t.wl.ramp = some 10 ∧ t.wl.stall = some (s.axisField .windlass AxisTable.stallTime) ∧
          Changes ([.inputs, .axis .windlass, .windlass, .groups] ++ evaluated ++ published) s t) ∧
      (s.axes.latch = true →
        ∃ t, exec (.footPress f) s = .next t ∧ t.input own = true ∧ t.spent f = true ∧
          (t.axis .windlass) = s.axis .windlass ∧ Changes [.inputs, .windlass] s t)) ∧
    (s.input other = false → s.spent f = false → s.wl.mode.foot = false →
      ((s.axis .windlass).phase = .running → s.axisField .windlass AxisTable.rampTime ≠ 0 → s.wl.duty ≠ 0 →
        ∃ t, exec (.footPress f) s = .next t ∧ t.input own = true ∧ t.spent f = true ∧
          (t.axis .windlass).phase = .stopping ∧ (t.axis .windlass).last = .stopped ∧ t.wl.dutyTarget = 0 ∧
          t.wl.duty = s.wl.duty ∧ Changes (.inputs :: moving ++ published) s t) ∧
      ((s.axis .windlass).phase = .starting →
        ∃ t, exec (.footPress f) s = .next t ∧ t.input own = true ∧ t.spent f = true ∧
          (t.axis .windlass).phase = .idle ∧ (t.axis .windlass).last = .stopped ∧
          Changes (.inputs :: moving ++ published) s t)) ∧
    (s.Calm → s.input other = false → s.spent f = false → (s.axis .windlass).phase = .stopping →
      ∃ t, exec (.footPress f) s = .next t ∧ t.input own = true ∧ t.spent f = true ∧
        (t.axis .windlass) = s.axis .windlass ∧ Changes [.inputs, .windlass] s t) ∧
    (s.input other = true → s.wl.mode.foot = true →
      ((s.axis .windlass).phase = .running → s.axisField .windlass AxisTable.rampTime ≠ 0 → s.wl.duty ≠ 0 →
        ∃ t, exec (.footPress f) s = .next t ∧ t.wl.spentUp = true ∧ t.wl.spentDown = true ∧
          (t.axis .windlass).phase = .stopping ∧ (t.axis .windlass).last = .released ∧ t.wl.dutyTarget = 0 ∧
          t.wl.duty = s.wl.duty ∧ Changes (.inputs :: moving ++ published) s t) ∧
      ((s.axis .windlass).phase = .starting →
        ∃ t, exec (.footPress f) s = .next t ∧ t.wl.spentUp = true ∧ t.wl.spentDown = true ∧
          (t.axis .windlass).phase = .idle ∧ (t.axis .windlass).last = .released ∧
          Changes (.inputs :: moving ++ published) s t)) ∧
    (s.Calm → s.input other = true → (s.axis .windlass).phase = .idle →
      ∃ t, exec (.footPress f) s = .next t ∧ t.wl = { s.wl with spentUp := true, spentDown := true } ∧
        Changes [.inputs, .windlass] s t) ∧
    (s.Calm → s.input other = false →
      ∃ t, exec (.footPress .both) s = .next t ∧ t.wl = { s.wl with spentUp := true, spentDown := true } ∧
        t.input own = true ∧ t.input other = true ∧ Changes [.inputs, .windlass] s t)

/-- The release of a foot switch clears its spent mark, and ends the run it holds: STOPPING with RELEASED from RUNNING,
IDLE with RELEASED from STARTING (R161, R163). Both released at one sample clear both marks. So where no permit entry
reads the foot switches. Where one does, it is evaluated at the new level, with the sets and their effect on the hydraulic
axes, and no windlass STARTING in a blocked motion or RUNNING in a stop-demand one goes on in it; the mark is cleared all
the same (R129 to R134). -/
def Obligations.FootReleaseEndsTheRun : Prop :=
  (∀ (f : Feet) (s : State), s.power = .running → s.store.commitPending = false → (∀ i ∈ feetInputs f, s.input i = true) →
    ∃ t, exec (.footRelease f) s = .next t ∧ (∀ i : Fin 13, t.input i = (!decide (i ∈ feetInputs f) && s.input i)) ∧
      t.spent f = false ∧ EntriesTake s t (feetInputs f) false ∧
      ((∃ e, s.namesFeet f e = true) → (∀ h, PermitsAct s t (hydAxis h)) ∧
        (∀ m, (s.axis .windlass).dir = some m →
          (s.axis .windlass).phase = .starting ∧ t.blocked m = true ∨
            (s.axis .windlass).phase = .running ∧ inSet t.permits.stops m = true →
          (t.axis .windlass).dir ≠ some m ∨
            (t.axis .windlass).phase ≠ .starting ∧ (t.axis .windlass).phase ≠ .running)) ∧
      Changes ([.inputs, .choice, .permits] ++ moving ++ published) s t) ∧
  ∀ (f : Feet) (own other : Fin 13) (mode : WindlassMode) (m : Motion) (s : State), FootSide f own other mode m →
    s.power = .running → s.store.commitPending = false → (∀ e : Fin 24, s.namesFeet .both e = false) → s.input own = true →
    (∃ t, exec (.footRelease f) s = .next t ∧ t.spent f = false ∧ t.input own = false ∧ t.input other = s.input other ∧
      (s.wl.mode = mode → (s.axis .windlass).phase = .starting →
        (t.axis .windlass).phase = .idle ∧ (t.axis .windlass).last = .released) ∧
      (s.wl.mode = mode → (s.axis .windlass).phase = .running → s.axisField .windlass AxisTable.rampTime ≠ 0 →
        s.wl.duty ≠ 0 →
        (t.axis .windlass).phase = .stopping ∧ (t.axis .windlass).last = .released ∧ t.wl.dutyTarget = 0 ∧
        t.wl.duty = s.wl.duty) ∧
      Changes (.inputs :: moving ++ published) s t) ∧
    (s.input other = true →
      ∃ t, exec (.footRelease .both) s = .next t ∧ t.wl.spentUp = false ∧ t.wl.spentDown = false ∧ t.input own = false ∧
        t.input other = false ∧ Changes (.inputs :: moving ++ published) s t)

/-! ### The output stage -/

/-- A bridge cycle starts at count 0 and takes the applied duty × P / 1000 (R170). A period start of a PWM bank sets its
counter to 0 and loads the buffers of its channels, but for those that hold, and takes their polarities; the other banks
are left (R167 to R169). A lighting pin stands at the active level of the polarity in force while the counter of its bank is
below the loaded duty, and at the inactive level for the rest of the period; during the load, and without power, it is
undriven (R167 to R169). Every tenth count of the 10 MHz base raises each bank's counter by 1, or at the last count of its
period leaves it, with the period start due (R167; how the base is stepped is log entry 6, the mark due log entry 7). -/
def Obligations.OutputCyclesStart : Prop :=
  ∀ s : State,
    (s.out.bridge.dir.isSome = true →
      ∃ t, exec .bridgeCycleStart s = .next t ∧ t.out.bridge.dir = s.out.bridge.dir ∧ t.out.bridge.count = 0 ∧
        t.out.bridge.high =
          s.wl.duty * (10000000 / (s.axisField .windlass AxisTable.frequency * 1000)) / 1000 ∧
        Changes [.bridge] s t) ∧
    (∀ b : Fin 3, s.power = .running →
      ∃ t, exec (.periodStart b) s = .next t ∧ t.out.banks[b].counter = 0 ∧ t.out.banks[b].period = s.out.banks[b].period ∧
        (∀ c : Fin 3, c ≠ b → t.out.banks[c] = s.out.banks[c]) ∧
        (∀ c : Fin 24,
          (c.val / 8 = b.val → s.out.hold[c] = false → t.out.loaded[c] = s.out.buffers[c]) ∧
          (c.val / 8 = b.val → t.out.activeHigh[c] = (s.channelField c ChannelTable.polarity == 0)) ∧
          (c.val / 8 = b.val → s.out.hold[c] = true → t.out.loaded[c] = s.out.loaded[c]) ∧
          (c.val / 8 ≠ b.val → t.out.loaded[c] = s.out.loaded[c] ∧ t.out.activeHigh[c] = s.out.activeHigh[c])) ∧
        t.out.hold = s.out.hold ∧ Changes [.pwm] s t) ∧
    (∀ (b : Fin 3) (c : Fin 24), c.val / 8 = b.val →
      (s.power = .running → s.out.banks[b].counter < s.out.loaded[c] → s.lightPin c = some s.out.activeHigh[c]) ∧
      (s.power = .running → s.out.loaded[c] ≤ s.out.banks[b].counter → s.lightPin c = some (!s.out.activeHigh[c])) ∧
      (s.power ≠ .running → s.lightPin c = none)) ∧
    (s.pending = [] → s.power = .running → s.due = [] → s.clock % 10 = 9 → s.clock < 10000 →
      ∃ t, step s = .next t ∧ (∀ b : Fin 3, t.out.banks[b] =
          if s.out.banks[b].counter + 1 < s.out.banks[b].period then
            { s.out.banks[b] with counter := s.out.banks[b].counter + 1 }
          else { s.out.banks[b] with due := true }) ∧
        t.out.loaded = s.out.loaded ∧ t.out.activeHigh = s.out.activeHigh)

/-- The two switches of a leg are never on together, and at least the dead time passes between one turning off and the other
turning on, within a cycle and across its start, where every switch of the chopping leg is off for the dead time (R170). -/
def Obligations.BridgeNeverShootsThrough : Prop :=
  ∀ (b : Bridge) (dt cycle : Nat), 0 < dt →
    let sw := fun n => ({ b with count := n } : Bridge).switches dt cycle
    (∀ n, ¬ ((sw n).aHigh = true ∧ (sw n).aLow = true) ∧ ¬ ((sw n).bHigh = true ∧ (sw n).bLow = true)) ∧
    (∀ n k, (sw n).aHigh = true → (sw k).aLow = true → n + dt < k) ∧
    (∀ n k, (sw n).bHigh = true → (sw k).bLow = true → n + dt < k) ∧
    (∀ n, n < dt → (sw n).aHigh = false ∧ (sw n).bHigh = false ∧ (b.dir = some .wPayout → (sw n).aLow = false) ∧
      (b.dir = some .wHaul → (sw n).bLow = false)) ∧
    (b.dir = none → ∀ n, sw n = { aHigh := false, aLow := false, bHigh := false, bLow := false }) ∧
    (b.dir = some .wPayout → ∀ n, (sw n).bLow = true ∧ (sw n).bHigh = false) ∧
    (b.dir = some .wHaul → ∀ n, (sw n).aLow = true ∧ (sw n).aHigh = false)

/-! ### Tables -/

/-- CURSOR places the cursor, abandons the assembly with WRITE_ABANDONED where it held bytes, and drops the latched copy
(R74, R77). DISCARD abandons the assembly and copies the active bank into the shadow bank, or cancels a pending commit and
leaves the shadow bank (R84). -/
def Obligations.CursorAndDiscard : Prop :=
  ∀ (s : State) (r : Request) (rest : List Request), s.Head r rest → r.kind = .setup →
    (s.Calm → ∀ (tbl hi lo md : Byte) (l : List Byte) (k : Table) (m : StepMode),
      r.payload = [64, tbl, hi, lo, md] ++ l → tbl.toNat = k.code → StepMode.ofCode md.toNat = some m →
      let n := hi.toNat * 256 + lo.toNat
      n < k.entries →
        ∃ t, exec .cursor s = .next t ∧ t.exe.intake = rest ∧ Answered s t r .ok [] ∧
          t.exe.cursor = { table := k, index := n, mode := m } ∧ t.exe.assembly = [] ∧ t.exe.readOffset = 0 ∧
          t.exe.latched = [] ∧ (s.exe.assembly ≠ [] → t.raised .writeAbandoned = true) ∧
          Changes ([.intake, .cursor, .latched] ++ published) s t) ∧
    (∀ l : List Byte, s.Quiet → r.payload = 68 :: l →
      ∃ t, exec .discard s = .next t ∧ t.exe.intake = rest ∧ Answered s t r .ok [] ∧ t.exe.assembly = [] ∧
        t.exe.cursor = s.exe.cursor ∧ (s.exe.assembly ≠ [] → t.raised .writeAbandoned = true) ∧
        (s.store.commitPending = false → t.store.shadow = s.store.active ∧
          Changes ([.intake, .cursor, .shadow] ++ published) s t) ∧
        (s.store.commitPending = true → t.store.commitPending = false ∧
          Changes ([.intake, .cursor, .commit] ++ published) s t))

/-- WRITE appends its bytes, the first six at most, to the assembly and answers the index and the count held (R76). The bytes
that complete an entry put it whole into the shadow bank at the cursor, every other byte left, and the cursor steps (R75,
R76). Bytes beyond it begin the next entry, so that one WRITE may complete several, each at the index the cursor then has
(R76). It is answered BUSY during a save and DENIED on WATCH_LIVE, with nothing changed. -/
def Obligations.WriteFillsTheShadowEntry : Prop :=
  ∀ (s : State) (r : Request) (rest : List Request) (bytes : List Byte), s.Calm → s.MemoryWf → s.Head r rest →
    r.kind = .setup → r.payload = 65 :: bytes → bytes ≠ [] →
    let data := bytes.take 6
    let c := s.exe.cursor
    let e := s.exe.assembly ++ data
    let answer := fun (t : State) => beBytes 2 t.exe.cursor.index ++ [BitVec.ofNat 8 t.exe.assembly.length]
    (s.exe.saveCtx = none → c.table ≠ .watchLive → e.length < c.table.entryBytes →
      ∃ t, exec .write s = .next t ∧ t.exe.intake = rest ∧ Answered s t r .ok (answer t) ∧ t.exe.assembly = e ∧
        t.exe.cursor = c ∧ t.exe.readOffset = 0 ∧ t.exe.latched = [] ∧
        Changes ([.intake, .cursor, .latched] ++ published) s t) ∧
    (s.exe.saveCtx = none → c.table ≠ .watchLive → e.length = c.table.entryBytes →
      ∃ t, exec .write s = .next t ∧ t.exe.intake = rest ∧ Answered s t r .ok (answer t) ∧ t.exe.assembly = [] ∧
        t.exe.cursor.table = c.table ∧ t.exe.cursor.mode = c.mode ∧
        (t.exe.cursor.index = match c.mode with
          | .inc => if c.index + 1 = c.table.entries then 0 else c.index + 1
          | .dec => if c.index = 0 then c.table.entries - 1 else c.index - 1
          | .hold => c.index) ∧
        bankEntry t.store.shadow c.table c.index = e ∧
        (∀ a, a < bankAddr c.table c.index 0 ∨ bankAddr c.table (c.index + 1) 0 ≤ a →
          bankRead t.store.shadow a = bankRead s.store.shadow a) ∧
        Changes ([.intake, .cursor, .latched, .shadow] ++ published) s t) ∧
    (s.exe.saveCtx = none → c.table ≠ .watchLive → c.table.entryBytes < e.length →
      let n := c.table.entryBytes
      let count := e.length / n
      let place := fun j => Nat.iterate (stepIndex c.table c.mode) j c.index
      ∃ t, exec .write s = .next t ∧ t.exe.intake = rest ∧ Answered s t r .ok (answer t) ∧
        t.exe.assembly = e.drop (count * n) ∧ t.exe.cursor = { c with index := place count } ∧
        t.exe.readOffset = 0 ∧ t.exe.latched = [] ∧
        (∀ j, j < count → (∀ k, j < k → k < count → place k ≠ place j) →
          bankEntry t.store.shadow c.table (place j) = (e.drop (j * n)).take n) ∧
        (∀ a, (∀ j, j < count → a < bankAddr c.table (place j) 0 ∨ bankAddr c.table (place j + 1) 0 ≤ a) →
          bankRead t.store.shadow a = bankRead s.store.shadow a) ∧
        Changes ([.intake, .cursor, .latched, .shadow] ++ published) s t) ∧
    (s.exe.saveCtx ≠ none →
      ∃ t, exec .write s = .next t ∧ t.exe.intake = rest ∧ Answered s t r .busy [] ∧ Changes (.intake :: published) s t) ∧
    (s.exe.saveCtx = none → c.table = .watchLive →
      ∃ t, exec .write s = .next t ∧ t.exe.intake = rest ∧ Answered s t r .denied [] ∧ Changes (.intake :: published) s t)

/-- READ latches the entry at the cursor at its first chunk and answers 6 bytes at a time from that copy; the last chunk
drops the copy and steps the cursor (R78, R79). A first READ of WATCH_LIVE clears NEW in the slot (R48). It is BUSY while
the assembly holds bytes. -/
def Obligations.ReadAnswersTheLatchedEntry : Prop :=
  ∀ (s : State) (r : Request) (rest : List Request) (bank : Byte) (l : List Byte), s.Calm → s.Head r rest →
    r.kind = .setup → r.payload = 66 :: bank :: l →
    let c := s.exe.cursor
    let copy := if s.exe.readOffset ≠ 0 then s.exe.latched
      else bankEntry (if bank = 0 then s.store.active else s.store.shadow) c.table c.index
    let chunk := (copy.drop (6 * s.exe.readOffset)).take 6
    (bank.toNat ≤ 1 → s.exe.assembly = [] → c.table ≠ .watchLive ∨ s.exe.readOffset ≠ 0 →
      ∃ t, exec .read s = .next t ∧ t.exe.intake = rest ∧ Answered s t r .ok chunk ∧
        (c.table.entryBytes ≤ 6 * (s.exe.readOffset + 1) → t.exe.readOffset = 0 ∧ t.exe.latched = [] ∧
          t.exe.cursor = { c with index := stepIndex c.table c.mode c.index }) ∧
        (6 * (s.exe.readOffset + 1) < c.table.entryBytes → t.exe.readOffset = s.exe.readOffset + 1 ∧
          t.exe.latched = copy ∧ t.exe.cursor = c) ∧
        Changes ([.intake, .cursor, .latched] ++ published) s t) ∧
    (∀ n : Fin 32, bank.toNat ≤ 1 → s.exe.assembly = [] → c.table = .watchLive → c.index = n.val → s.exe.readOffset = 0 →
      ∃ t, exec .read s = .next t ∧ t.exe.intake = rest ∧ Answered s t r .ok ((s.watch[n].entry).take 6) ∧
        t.exe.readOffset = 1 ∧ t.exe.latched = s.watch[n].entry ∧ t.watch[n] = { s.watch[n] with fresh := false } ∧
        (∀ m : Fin 32, m ≠ n → t.watch[m] = s.watch[m]) ∧
        Changes ([.intake, .latched, .watch] ++ published) s t) ∧
    (bank.toNat ≤ 1 → s.exe.assembly ≠ [] →
      ∃ t, exec .read s = .next t ∧ t.exe.intake = rest ∧ Answered s t r .busy [] ∧ Changes (.intake :: published) s t)

/-- COMMIT with every axis IDLE is applied: the clamped shadow bank becomes the active bank and every slot is emptied
(R51, R80, R81); every permit entry is evaluated and the sets formed (R136), the requests are recomputed (R107), the
budget evaluates (R113), and the PWM banks and HOLD channels are reconfigured (R167, R169; holding on while disabled: log
entry 34). With an axis outside IDLE it is PENDING and answered ACCEPTED, and so is another one meanwhile (R80, R83);
during a save it is answered BUSY (R80, R86). -/
def Obligations.CommitAppliesOrWaits : Prop :=
  ∀ (s : State) (r : Request) (rest : List Request) (l : List Byte), s.Quiet → s.Head r rest → r.kind = .setup →
    r.payload = 67 :: l →
    (s.store.commitPending = false → s.exe.saveCtx = none → (∀ a, (s.axis a).phase = .idle) →
      ∃ t, exec .commit s = .next t ∧ t.exe.intake = rest ∧ Answered s t r .ok [] ∧ CommitApplied s t ∧
        t.store = { s.store with active := clampBank s.store.shadow } ∧ (∀ n : Fin 32, t.watch[n] = Slot.initial) ∧
        t.exe.assembly = [] ∧ t.exe.cursor = s.exe.cursor ∧ (∀ a, (t.axis a).phase = .idle) ∧
        (t.exe.refresh = if t.zone Zone.refresh = 0 then none else some (t.zone Zone.refresh * 1000)) ∧
        t.wl.counter = min s.wl.counter (t.axisField .windlass AxisTable.rode) ∧
        t.groups = s.groups ∧ t.out.valves = s.out.valves ∧ t.inp = s.inp) ∧
    (s.store.commitPending = false → s.exe.saveCtx = none → (∃ a, (s.axis a).phase ≠ .idle) →
      ∃ t, exec .commit s = .next t ∧ t.exe.intake = rest ∧ Answered s t r .accepted [] ∧
        t.store = { s.store with commitPending := true } ∧ t.exe.assembly = [] ∧ t.exe.cursor = s.exe.cursor ∧
        Changes ([.intake, .cursor, .commit] ++ published) s t) ∧
    (s.store.commitPending = true → s.exe.saveCtx = none → (∃ a, (s.axis a).phase ≠ .idle) →
      ∃ t, exec .commit s = .next t ∧ t.exe.intake = rest ∧ Answered s t r .accepted [] ∧
        Changes (.intake :: published) s t) ∧
    (s.store.commitPending = false → s.exe.saveCtx ≠ none →
      ∃ t, exec .commit s = .next t ∧ t.exe.intake = rest ∧ Answered s t r .busy [] ∧ Changes (.intake :: published) s t)

/-- SAVE erases the marker, begins to write the active bank, and answers nothing until its completion, which sets the marker
and answers DONE to the SAVE (R57, R85); a second SAVE meanwhile is answered BUSY (R86). That the image is written whole at
the taking is the model's reading (log entry 26). -/
def Obligations.SaveIsAnsweredAtItsCompletion : Prop :=
  ∀ s : State, s.Calm →
    (∀ (r : Request) (rest : List Request), s.Head r rest → r.kind = .setup → r.payload.head? = some 69 →
      (s.exe.saveCtx = none →
        ∃ t, exec .save s = .next t ∧ t.exe.intake = rest ∧ t.exe.saveCtx = some r ∧ t.exe.saveAge = 0 ∧
          t.store = { s.store with image := s.store.active, marker := false } ∧ t.exe.assembly = [] ∧
          t.exe.cursor = s.exe.cursor ∧
          (s.exe.assembly = [] → Changes [.intake, .saveCtx, .image] s t) ∧
          Changes ([.intake, .saveCtx, .cursor, .image] ++ published) s t) ∧
      (s.exe.saveCtx ≠ none →
        ∃ t, exec .save s = .next t ∧ t.exe.intake = rest ∧ Answered s t r .busy [] ∧
          Changes (.intake :: published) s t)) ∧
    ∀ r : Request, s.exe.saveCtx = some r →
      ∃ t, exec .saveCompletion s = .next t ∧ t.exe.saveCtx = none ∧ t.store = { s.store with marker := true } ∧
        Answered s t r .done [] ∧ Changes ([.saveCtx, .image] ++ published) s t

/-- RESET brings every block to its zone-reset state: ports, slots, executor and refresh timer (R19, R50, R72), groups
with their fades ended and a return where the level differs (R109), the budget unit evaluated from source UNKNOWN (R125),
every permit entry (R136), axes, windlass and its reversal pause and spent marks (R155, R166), PWM banks from count 0 with
the duties of the grants (R169), motion outputs off (R171, R172). It keeps the banks, the store, the positions, the chain
counter and the inputs; during a save it is answered BUSY (R89). That the output target equals the base target in FOLLOW, and
that the pay-out target is 0 where R166 says NONE, are the model's choices (log entries 21 and 22). -/
def Obligations.ResetBringsTheZoneResetState : Prop :=
  ∀ (s : State) (r : Request) (rest : List Request) (l : List Byte), s.Head r rest → r.kind = .setup →
    r.payload = 70 :: l →
    (s.exe.saveCtx = none →
      ∃ t, exec .reset s = .next t ∧ t.exe.intake = [] ∧ t.exe.cursor = { table := .zone, index := 0, mode := .inc } ∧
        t.exe.assembly = [] ∧ t.exe.readOffset = 0 ∧ t.exe.latched = [] ∧
        t.store = { s.store with commitPending := false } ∧ (∀ n : Fin 32, t.watch[n] = Slot.initial) ∧
        (∀ p, (t.port p).score = 0 ∧ (t.port p).phase = .active ∧ (t.port p).fwd = [] ∧ (t.port p).run = 0 ∧
          (t.port p).line.inFlight = false ∧ ∀ k, (t.port p).holdsRecord k = t.destination p) ∧
        (r.broadcast = false →
          ∃ e ∈ (t.port r.port).own, e.record = none ∧ e.frame = s.replyFrame r .ok []) ∧
        (∀ a, (t.axis a).phase = .idle ∧ (t.axis a).dir = none ∧ (t.axis a).last = .none ∧ (t.axis a).cause = .none ∧
          (t.axis a).pos = (s.axis a).pos ∧ t.budget.res.get a = .none) ∧
        t.budget.waiters = [] ∧ t.axes.pumpList = [] ∧ t.axes.latch = (s.axes.latch && s.inp.estopActive) ∧
        (∀ g : Fin 12, t.axes.latch = false → t.groups[g].stack = []) ∧
        t.out.valves = (false, false, false, false, false) ∧ t.wl.duty = 0 ∧ (s.wl.duty ≠ 0 → t.out.bridge.dir = none) ∧
        t.wl.mode = .none ∧ t.wl.counter = s.wl.counter ∧ t.wl.referenced = s.wl.referenced ∧ t.inp = s.inp ∧
        (t.raised .storeEmpty = true ↔ s.store.marker = false) ∧ t.raised .writeAbandoned = false ∧
        (t.exe.refresh = if t.zone Zone.refresh = 0 then none else some (t.zone Zone.refresh * 1000)) ∧
        BudgetFromUnknown t ∧ PermitsMade t ∧
        (∀ c : Fin 24, t.out.hold[c] = false ∧ t.out.activeHigh[c] = (t.channelField c ChannelTable.polarity == 0) ∧
          t.out.banks[bankOf c] = { counter := 0, due := false, period := t.zone (Zone.period (bankOf c)) } ∧
          t.out.buffers[c] = t.budget.grants[c] * t.zone (Zone.period (bankOf c)) / 1000 ∧
          t.out.loaded[c] = t.out.buffers[c]) ∧
        (∀ g : Fin 12, t.axes.latch = false →
          let x := s.groups[g]
          let base := if x.baseFade.isSome then x.baseTarget else x.base
          let out := if x.outFade.isSome then x.outTarget else if x.mode = .follow then base else x.out
          t.groups[g].base = base ∧ t.groups[g].baseTarget = base ∧ t.groups[g].baseFade = none ∧
          t.groups[g].outTarget = base ∧
          (out = base ∨ s.transition g = 0 →
            t.groups[g].mode = .follow ∧ t.groups[g].out = base ∧ t.groups[g].outFade = none) ∧
          (out ≠ base → s.transition g ≠ 0 → t.groups[g].mode = .returning ∧ t.groups[g].out = out ∧
            t.groups[g].outFade = some { start := out, elapsed := 0, steps := s.transition g * 10, wait := 10 })) ∧
        (∀ a, (t.axis a).seen = (s.axis a).seen ∧ (t.axis a).target = none ∧ (t.axis a).admitted = false ∧
          (t.axis a).window = none ∧ (t.axis a).startTime = none ∧ (t.axis a).travel = none ∧ (t.axis a).lead = none ∧
          (t.axis a).lag = none) ∧
        t.wl.dutyTarget = 0 ∧ t.wl.payTarget = 0 ∧ t.wl.lastDir = s.wl.lastDir ∧ t.wl.keepAlive = none ∧
        t.wl.stall = none ∧ t.wl.ramp = none ∧ t.wl.spentUp = (s.wl.spentUp || s.input footUpInput) ∧
        t.wl.spentDown = (s.wl.spentDown || s.input footDownInput) ∧
        (s.wl.duty = 0 → t.wl.pause = s.wl.pause) ∧
        (s.wl.duty ≠ 0 → t.wl.pause =
          if s.axisField .windlass AxisTable.pause = 0 then none else some (s.axisField .windlass AxisTable.pause))) ∧
    (s.Calm → s.exe.saveCtx ≠ none →
      ∃ t, exec .reset s = .next t ∧ t.exe.intake = rest ∧ Answered s t r .busy [] ∧ Changes (.intake :: published) s t)

/-! ### What every step keeps -/

/-- Every step keeps the banks and the stored image in canonical form, the cursor in its table, and the assembly short of an
entry (R75, R76; the form of the banks is the model's). -/
def Obligations.EveryStepKeepsTheMemory : Prop :=
  ∀ s t : State, s.MemoryWf → step s = .next t → t.MemoryWf

/-- Every step keeps the queues within their bounds and in class order: 16 frames in a forward queue, 12 entries in an own
queue, 8 records in intake, none of class 2 or 3 in a DEGRADED port's forward queue, none at all at an ISOLATED port
(R10, R11, R13, R14, R52). An ACTIVE port's score stands below 96, a DEGRADED port's from 80 to 199 (R10, R11). -/
def Obligations.EveryStepKeepsTheQueues : Prop :=
  ∀ s t : State, s.QueuesOk → step s = .next t → t.QueuesOk

/-- Every step keeps the motion outputs safe: nothing is driven but by an axis in motion, the pump only for the axis that
holds it, and while the e-stop latch stands no axis is under way (R144, R146, R150, R151, R153, R171, R172). -/
def Obligations.EveryStepKeepsMotionSafe : Prop :=
  ∀ s t : State, s.MotionSafe → step s = .next t → t.MotionSafe
end

