-- ==== Sys2Proof/Laws/State.lean ====
section
/-! SUPPORT. What each small update of the state leaves as it was, field by field, and what reading back an update gives.
Every lemma is tagged for `simp`, so that no later proof unfolds a record update. -/

namespace Sys2Proof.Machine

/-! ### `State.raise` -/

@[simp] theorem State.raise_pending (s : State) (e : Event) : (s.raise e).pending = s.pending := rfl
@[simp] theorem State.raise_power (s : State) (e : Event) : (s.raise e).power = s.power := rfl
@[simp] theorem State.raise_loadAge (s : State) (e : Event) : (s.raise e).loadAge = s.loadAge := rfl
@[simp] theorem State.raise_clock (s : State) (e : Event) : (s.raise e).clock = s.clock := rfl
@[simp] theorem State.raise_choice (s : State) (e : Event) : (s.raise e).choice = s.choice := rfl
@[simp] theorem State.raise_node (s : State) (e : Event) : (s.raise e).node = s.node := rfl
@[simp] theorem State.raise_trunk (s : State) (e : Event) : (s.raise e).trunk = s.trunk := rfl
@[simp] theorem State.raise_spur (s : State) (e : Event) : (s.raise e).spur = s.spur := rfl
@[simp] theorem State.raise_watch (s : State) (e : Event) : (s.raise e).watch = s.watch := rfl
@[simp] theorem State.raise_exe_intake (s : State) (e : Event) : (s.raise e).exe.intake = s.exe.intake := rfl
@[simp] theorem State.raise_exe_takeDue (s : State) (e : Event) : (s.raise e).exe.takeDue = s.exe.takeDue := rfl
@[simp] theorem State.raise_exe_saveCtx (s : State) (e : Event) : (s.raise e).exe.saveCtx = s.exe.saveCtx := rfl
@[simp] theorem State.raise_exe_saveAge (s : State) (e : Event) : (s.raise e).exe.saveAge = s.exe.saveAge := rfl
@[simp] theorem State.raise_exe_cursor (s : State) (e : Event) : (s.raise e).exe.cursor = s.exe.cursor := rfl
@[simp] theorem State.raise_exe_assembly (s : State) (e : Event) : (s.raise e).exe.assembly = s.exe.assembly := rfl
@[simp] theorem State.raise_exe_readOffset (s : State) (e : Event) : (s.raise e).exe.readOffset = s.exe.readOffset := rfl
@[simp] theorem State.raise_exe_latched (s : State) (e : Event) : (s.raise e).exe.latched = s.exe.latched := rfl
@[simp] theorem State.raise_exe_pubs (s : State) (e : Event) : (s.raise e).exe.pubs = s.exe.pubs := rfl
@[simp] theorem State.raise_exe_refresh (s : State) (e : Event) : (s.raise e).exe.refresh = s.exe.refresh := rfl
@[simp] theorem State.raise_store (s : State) (e : Event) : (s.raise e).store = s.store := rfl
@[simp] theorem State.raise_groups (s : State) (e : Event) : (s.raise e).groups = s.groups := rfl
@[simp] theorem State.raise_requests (s : State) (e : Event) : (s.raise e).requests = s.requests := rfl
@[simp] theorem State.raise_budget (s : State) (e : Event) : (s.raise e).budget = s.budget := rfl
@[simp] theorem State.raise_permits (s : State) (e : Event) : (s.raise e).permits = s.permits := rfl
@[simp] theorem State.raise_axes (s : State) (e : Event) : (s.raise e).axes = s.axes := rfl
@[simp] theorem State.raise_wl (s : State) (e : Event) : (s.raise e).wl = s.wl := rfl
@[simp] theorem State.raise_out (s : State) (e : Event) : (s.raise e).out = s.out := rfl
@[simp] theorem State.raise_inp (s : State) (e : Event) : (s.raise e).inp = s.inp := rfl
@[simp] theorem State.raise_axis (s : State) (e : Event) (x : Axis) : (s.raise e).axis x = s.axis x := rfl
@[simp] theorem State.raise_port (s : State) (e : Event) (q : Port) : (s.raise e).port q = s.port q := rfl
@[simp] theorem State.raise_field (s : State) (e : Event) (k : Table) (i : Nat) (w : BitField) : (s.raise e).field k i w = s.field k i w := rfl

/-! ### `State.raiseIf` -/

@[simp] theorem State.raiseIf_pending (s : State) (c : Bool) (e : Event) : (s.raiseIf c e).pending = s.pending := by cases c <;> rfl
@[simp] theorem State.raiseIf_power (s : State) (c : Bool) (e : Event) : (s.raiseIf c e).power = s.power := by cases c <;> rfl
@[simp] theorem State.raiseIf_loadAge (s : State) (c : Bool) (e : Event) : (s.raiseIf c e).loadAge = s.loadAge := by cases c <;> rfl
@[simp] theorem State.raiseIf_clock (s : State) (c : Bool) (e : Event) : (s.raiseIf c e).clock = s.clock := by cases c <;> rfl
@[simp] theorem State.raiseIf_choice (s : State) (c : Bool) (e : Event) : (s.raiseIf c e).choice = s.choice := by cases c <;> rfl
@[simp] theorem State.raiseIf_node (s : State) (c : Bool) (e : Event) : (s.raiseIf c e).node = s.node := by cases c <;> rfl
@[simp] theorem State.raiseIf_trunk (s : State) (c : Bool) (e : Event) : (s.raiseIf c e).trunk = s.trunk := by cases c <;> rfl
@[simp] theorem State.raiseIf_spur (s : State) (c : Bool) (e : Event) : (s.raiseIf c e).spur = s.spur := by cases c <;> rfl
@[simp] theorem State.raiseIf_watch (s : State) (c : Bool) (e : Event) : (s.raiseIf c e).watch = s.watch := by cases c <;> rfl
@[simp] theorem State.raiseIf_exe_intake (s : State) (c : Bool) (e : Event) : (s.raiseIf c e).exe.intake = s.exe.intake := by cases c <;> rfl
@[simp] theorem State.raiseIf_exe_takeDue (s : State) (c : Bool) (e : Event) : (s.raiseIf c e).exe.takeDue = s.exe.takeDue := by cases c <;> rfl
@[simp] theorem State.raiseIf_exe_saveCtx (s : State) (c : Bool) (e : Event) : (s.raiseIf c e).exe.saveCtx = s.exe.saveCtx := by cases c <;> rfl
@[simp] theorem State.raiseIf_exe_saveAge (s : State) (c : Bool) (e : Event) : (s.raiseIf c e).exe.saveAge = s.exe.saveAge := by cases c <;> rfl
@[simp] theorem State.raiseIf_exe_cursor (s : State) (c : Bool) (e : Event) : (s.raiseIf c e).exe.cursor = s.exe.cursor := by cases c <;> rfl
@[simp] theorem State.raiseIf_exe_assembly (s : State) (c : Bool) (e : Event) : (s.raiseIf c e).exe.assembly = s.exe.assembly := by cases c <;> rfl
@[simp] theorem State.raiseIf_exe_readOffset (s : State) (c : Bool) (e : Event) : (s.raiseIf c e).exe.readOffset = s.exe.readOffset := by cases c <;> rfl
@[simp] theorem State.raiseIf_exe_latched (s : State) (c : Bool) (e : Event) : (s.raiseIf c e).exe.latched = s.exe.latched := by cases c <;> rfl
@[simp] theorem State.raiseIf_exe_pubs (s : State) (c : Bool) (e : Event) : (s.raiseIf c e).exe.pubs = s.exe.pubs := by cases c <;> rfl
@[simp] theorem State.raiseIf_exe_refresh (s : State) (c : Bool) (e : Event) : (s.raiseIf c e).exe.refresh = s.exe.refresh := by cases c <;> rfl
@[simp] theorem State.raiseIf_store (s : State) (c : Bool) (e : Event) : (s.raiseIf c e).store = s.store := by cases c <;> rfl
@[simp] theorem State.raiseIf_groups (s : State) (c : Bool) (e : Event) : (s.raiseIf c e).groups = s.groups := by cases c <;> rfl
@[simp] theorem State.raiseIf_requests (s : State) (c : Bool) (e : Event) : (s.raiseIf c e).requests = s.requests := by cases c <;> rfl
@[simp] theorem State.raiseIf_budget (s : State) (c : Bool) (e : Event) : (s.raiseIf c e).budget = s.budget := by cases c <;> rfl
@[simp] theorem State.raiseIf_permits (s : State) (c : Bool) (e : Event) : (s.raiseIf c e).permits = s.permits := by cases c <;> rfl
@[simp] theorem State.raiseIf_axes (s : State) (c : Bool) (e : Event) : (s.raiseIf c e).axes = s.axes := by cases c <;> rfl
@[simp] theorem State.raiseIf_wl (s : State) (c : Bool) (e : Event) : (s.raiseIf c e).wl = s.wl := by cases c <;> rfl
@[simp] theorem State.raiseIf_out (s : State) (c : Bool) (e : Event) : (s.raiseIf c e).out = s.out := by cases c <;> rfl
@[simp] theorem State.raiseIf_inp (s : State) (c : Bool) (e : Event) : (s.raiseIf c e).inp = s.inp := by cases c <;> rfl
@[simp] theorem State.raiseIf_axis (s : State) (c : Bool) (e : Event) (x : Axis) : (s.raiseIf c e).axis x = s.axis x := by cases c <;> rfl
@[simp] theorem State.raiseIf_port (s : State) (c : Bool) (e : Event) (q : Port) : (s.raiseIf c e).port q = s.port q := by cases c <;> rfl
@[simp] theorem State.raiseIf_field (s : State) (c : Bool) (e : Event) (k : Table) (i : Nat) (w : BitField) : (s.raiseIf c e).field k i w = s.field k i w := by cases c <;> rfl

/-! ### `State.setAxis` -/

@[simp] theorem State.setAxis_pending (s : State) (a : Axis) (x : AxisState) : (s.setAxis a x).pending = s.pending := rfl
@[simp] theorem State.setAxis_power (s : State) (a : Axis) (x : AxisState) : (s.setAxis a x).power = s.power := rfl
@[simp] theorem State.setAxis_loadAge (s : State) (a : Axis) (x : AxisState) : (s.setAxis a x).loadAge = s.loadAge := rfl
@[simp] theorem State.setAxis_clock (s : State) (a : Axis) (x : AxisState) : (s.setAxis a x).clock = s.clock := rfl
@[simp] theorem State.setAxis_choice (s : State) (a : Axis) (x : AxisState) : (s.setAxis a x).choice = s.choice := rfl
@[simp] theorem State.setAxis_node (s : State) (a : Axis) (x : AxisState) : (s.setAxis a x).node = s.node := rfl
@[simp] theorem State.setAxis_trunk (s : State) (a : Axis) (x : AxisState) : (s.setAxis a x).trunk = s.trunk := rfl
@[simp] theorem State.setAxis_spur (s : State) (a : Axis) (x : AxisState) : (s.setAxis a x).spur = s.spur := rfl
@[simp] theorem State.setAxis_watch (s : State) (a : Axis) (x : AxisState) : (s.setAxis a x).watch = s.watch := rfl
@[simp] theorem State.setAxis_exe (s : State) (a : Axis) (x : AxisState) : (s.setAxis a x).exe = s.exe := rfl
@[simp] theorem State.setAxis_store (s : State) (a : Axis) (x : AxisState) : (s.setAxis a x).store = s.store := rfl
@[simp] theorem State.setAxis_groups (s : State) (a : Axis) (x : AxisState) : (s.setAxis a x).groups = s.groups := rfl
@[simp] theorem State.setAxis_requests (s : State) (a : Axis) (x : AxisState) : (s.setAxis a x).requests = s.requests := rfl
@[simp] theorem State.setAxis_budget (s : State) (a : Axis) (x : AxisState) : (s.setAxis a x).budget = s.budget := rfl
@[simp] theorem State.setAxis_permits (s : State) (a : Axis) (x : AxisState) : (s.setAxis a x).permits = s.permits := rfl
@[simp] theorem State.setAxis_axes_pumpList (s : State) (a : Axis) (x : AxisState) : (s.setAxis a x).axes.pumpList = s.axes.pumpList := rfl
@[simp] theorem State.setAxis_axes_latch (s : State) (a : Axis) (x : AxisState) : (s.setAxis a x).axes.latch = s.axes.latch := rfl
@[simp] theorem State.setAxis_wl (s : State) (a : Axis) (x : AxisState) : (s.setAxis a x).wl = s.wl := rfl
@[simp] theorem State.setAxis_out (s : State) (a : Axis) (x : AxisState) : (s.setAxis a x).out = s.out := rfl
@[simp] theorem State.setAxis_inp (s : State) (a : Axis) (x : AxisState) : (s.setAxis a x).inp = s.inp := rfl
@[simp] theorem State.setAxis_port (s : State) (a : Axis) (x : AxisState) (q : Port) : (s.setAxis a x).port q = s.port q := rfl
@[simp] theorem State.setAxis_field (s : State) (a : Axis) (x : AxisState) (k : Table) (i : Nat) (w : BitField) : (s.setAxis a x).field k i w = s.field k i w := rfl

/-! ### `State.mapAxis` -/

@[simp] theorem State.mapAxis_pending (s : State) (a : Axis) (f : AxisState → AxisState) : (s.mapAxis a f).pending = s.pending := rfl
@[simp] theorem State.mapAxis_power (s : State) (a : Axis) (f : AxisState → AxisState) : (s.mapAxis a f).power = s.power := rfl
@[simp] theorem State.mapAxis_loadAge (s : State) (a : Axis) (f : AxisState → AxisState) : (s.mapAxis a f).loadAge = s.loadAge := rfl
@[simp] theorem State.mapAxis_clock (s : State) (a : Axis) (f : AxisState → AxisState) : (s.mapAxis a f).clock = s.clock := rfl
@[simp] theorem State.mapAxis_choice (s : State) (a : Axis) (f : AxisState → AxisState) : (s.mapAxis a f).choice = s.choice := rfl
@[simp] theorem State.mapAxis_node (s : State) (a : Axis) (f : AxisState → AxisState) : (s.mapAxis a f).node = s.node := rfl
@[simp] theorem State.mapAxis_trunk (s : State) (a : Axis) (f : AxisState → AxisState) : (s.mapAxis a f).trunk = s.trunk := rfl
@[simp] theorem State.mapAxis_spur (s : State) (a : Axis) (f : AxisState → AxisState) : (s.mapAxis a f).spur = s.spur := rfl
@[simp] theorem State.mapAxis_watch (s : State) (a : Axis) (f : AxisState → AxisState) : (s.mapAxis a f).watch = s.watch := rfl
@[simp] theorem State.mapAxis_exe (s : State) (a : Axis) (f : AxisState → AxisState) : (s.mapAxis a f).exe = s.exe := rfl
@[simp] theorem State.mapAxis_store (s : State) (a : Axis) (f : AxisState → AxisState) : (s.mapAxis a f).store = s.store := rfl
@[simp] theorem State.mapAxis_groups (s : State) (a : Axis) (f : AxisState → AxisState) : (s.mapAxis a f).groups = s.groups := rfl
@[simp] theorem State.mapAxis_requests (s : State) (a : Axis) (f : AxisState → AxisState) : (s.mapAxis a f).requests = s.requests := rfl
@[simp] theorem State.mapAxis_budget (s : State) (a : Axis) (f : AxisState → AxisState) : (s.mapAxis a f).budget = s.budget := rfl
@[simp] theorem State.mapAxis_permits (s : State) (a : Axis) (f : AxisState → AxisState) : (s.mapAxis a f).permits = s.permits := rfl
@[simp] theorem State.mapAxis_axes_pumpList (s : State) (a : Axis) (f : AxisState → AxisState) : (s.mapAxis a f).axes.pumpList = s.axes.pumpList := rfl
@[simp] theorem State.mapAxis_axes_latch (s : State) (a : Axis) (f : AxisState → AxisState) : (s.mapAxis a f).axes.latch = s.axes.latch := rfl
@[simp] theorem State.mapAxis_wl (s : State) (a : Axis) (f : AxisState → AxisState) : (s.mapAxis a f).wl = s.wl := rfl
@[simp] theorem State.mapAxis_out (s : State) (a : Axis) (f : AxisState → AxisState) : (s.mapAxis a f).out = s.out := rfl
@[simp] theorem State.mapAxis_inp (s : State) (a : Axis) (f : AxisState → AxisState) : (s.mapAxis a f).inp = s.inp := rfl
@[simp] theorem State.mapAxis_port (s : State) (a : Axis) (f : AxisState → AxisState) (q : Port) : (s.mapAxis a f).port q = s.port q := rfl
@[simp] theorem State.mapAxis_field (s : State) (a : Axis) (f : AxisState → AxisState) (k : Table) (i : Nat) (w : BitField) : (s.mapAxis a f).field k i w = s.field k i w := rfl

/-! ### `State.setPort` -/

@[simp] theorem State.setPort_pending (s : State) (p : Port) (x : PortState) : (s.setPort p x).pending = s.pending := by cases p <;> rfl
@[simp] theorem State.setPort_power (s : State) (p : Port) (x : PortState) : (s.setPort p x).power = s.power := by cases p <;> rfl
@[simp] theorem State.setPort_loadAge (s : State) (p : Port) (x : PortState) : (s.setPort p x).loadAge = s.loadAge := by cases p <;> rfl
@[simp] theorem State.setPort_clock (s : State) (p : Port) (x : PortState) : (s.setPort p x).clock = s.clock := by cases p <;> rfl
@[simp] theorem State.setPort_choice (s : State) (p : Port) (x : PortState) : (s.setPort p x).choice = s.choice := by cases p <;> rfl
@[simp] theorem State.setPort_node (s : State) (p : Port) (x : PortState) : (s.setPort p x).node = s.node := by cases p <;> rfl
@[simp] theorem State.setPort_watch (s : State) (p : Port) (x : PortState) : (s.setPort p x).watch = s.watch := by cases p <;> rfl
@[simp] theorem State.setPort_exe (s : State) (p : Port) (x : PortState) : (s.setPort p x).exe = s.exe := by cases p <;> rfl
@[simp] theorem State.setPort_store (s : State) (p : Port) (x : PortState) : (s.setPort p x).store = s.store := by cases p <;> rfl
@[simp] theorem State.setPort_groups (s : State) (p : Port) (x : PortState) : (s.setPort p x).groups = s.groups := by cases p <;> rfl
@[simp] theorem State.setPort_requests (s : State) (p : Port) (x : PortState) : (s.setPort p x).requests = s.requests := by cases p <;> rfl
@[simp] theorem State.setPort_budget (s : State) (p : Port) (x : PortState) : (s.setPort p x).budget = s.budget := by cases p <;> rfl
@[simp] theorem State.setPort_permits (s : State) (p : Port) (x : PortState) : (s.setPort p x).permits = s.permits := by cases p <;> rfl
@[simp] theorem State.setPort_axes (s : State) (p : Port) (x : PortState) : (s.setPort p x).axes = s.axes := by cases p <;> rfl
@[simp] theorem State.setPort_wl (s : State) (p : Port) (x : PortState) : (s.setPort p x).wl = s.wl := by cases p <;> rfl
@[simp] theorem State.setPort_out (s : State) (p : Port) (x : PortState) : (s.setPort p x).out = s.out := by cases p <;> rfl
@[simp] theorem State.setPort_inp (s : State) (p : Port) (x : PortState) : (s.setPort p x).inp = s.inp := by cases p <;> rfl
@[simp] theorem State.setPort_axis (s : State) (p : Port) (y : PortState) (x : Axis) : (s.setPort p y).axis x = s.axis x := by cases p <;> rfl
@[simp] theorem State.setPort_field (s : State) (p : Port) (x : PortState) (k : Table) (i : Nat) (w : BitField) : (s.setPort p x).field k i w = s.field k i w := by cases p <;> rfl

/-! ### `State.mapPort` -/

@[simp] theorem State.mapPort_pending (s : State) (p : Port) (f : PortState → PortState) : (s.mapPort p f).pending = s.pending := by cases p <;> rfl
@[simp] theorem State.mapPort_power (s : State) (p : Port) (f : PortState → PortState) : (s.mapPort p f).power = s.power := by cases p <;> rfl
@[simp] theorem State.mapPort_loadAge (s : State) (p : Port) (f : PortState → PortState) : (s.mapPort p f).loadAge = s.loadAge := by cases p <;> rfl
@[simp] theorem State.mapPort_clock (s : State) (p : Port) (f : PortState → PortState) : (s.mapPort p f).clock = s.clock := by cases p <;> rfl
@[simp] theorem State.mapPort_choice (s : State) (p : Port) (f : PortState → PortState) : (s.mapPort p f).choice = s.choice := by cases p <;> rfl
@[simp] theorem State.mapPort_node (s : State) (p : Port) (f : PortState → PortState) : (s.mapPort p f).node = s.node := by cases p <;> rfl
@[simp] theorem State.mapPort_watch (s : State) (p : Port) (f : PortState → PortState) : (s.mapPort p f).watch = s.watch := by cases p <;> rfl
@[simp] theorem State.mapPort_exe (s : State) (p : Port) (f : PortState → PortState) : (s.mapPort p f).exe = s.exe := by cases p <;> rfl
@[simp] theorem State.mapPort_store (s : State) (p : Port) (f : PortState → PortState) : (s.mapPort p f).store = s.store := by cases p <;> rfl
@[simp] theorem State.mapPort_groups (s : State) (p : Port) (f : PortState → PortState) : (s.mapPort p f).groups = s.groups := by cases p <;> rfl
@[simp] theorem State.mapPort_requests (s : State) (p : Port) (f : PortState → PortState) : (s.mapPort p f).requests = s.requests := by cases p <;> rfl
@[simp] theorem State.mapPort_budget (s : State) (p : Port) (f : PortState → PortState) : (s.mapPort p f).budget = s.budget := by cases p <;> rfl
@[simp] theorem State.mapPort_permits (s : State) (p : Port) (f : PortState → PortState) : (s.mapPort p f).permits = s.permits := by cases p <;> rfl
@[simp] theorem State.mapPort_axes (s : State) (p : Port) (f : PortState → PortState) : (s.mapPort p f).axes = s.axes := by cases p <;> rfl
@[simp] theorem State.mapPort_wl (s : State) (p : Port) (f : PortState → PortState) : (s.mapPort p f).wl = s.wl := by cases p <;> rfl
@[simp] theorem State.mapPort_out (s : State) (p : Port) (f : PortState → PortState) : (s.mapPort p f).out = s.out := by cases p <;> rfl
@[simp] theorem State.mapPort_inp (s : State) (p : Port) (f : PortState → PortState) : (s.mapPort p f).inp = s.inp := by cases p <;> rfl
@[simp] theorem State.mapPort_axis (s : State) (p : Port) (f : PortState → PortState) (x : Axis) : (s.mapPort p f).axis x = s.axis x := by cases p <;> rfl
@[simp] theorem State.mapPort_field (s : State) (p : Port) (f : PortState → PortState) (k : Table) (i : Nat) (w : BitField) : (s.mapPort p f).field k i w = s.field k i w := by cases p <;> rfl

/-! ### `State.mapGroup` -/

@[simp] theorem State.mapGroup_pending (s : State) (g : Fin 12) (f : LightGroup → LightGroup) : (s.mapGroup g f).pending = s.pending := rfl
@[simp] theorem State.mapGroup_power (s : State) (g : Fin 12) (f : LightGroup → LightGroup) : (s.mapGroup g f).power = s.power := rfl
@[simp] theorem State.mapGroup_loadAge (s : State) (g : Fin 12) (f : LightGroup → LightGroup) : (s.mapGroup g f).loadAge = s.loadAge := rfl
@[simp] theorem State.mapGroup_clock (s : State) (g : Fin 12) (f : LightGroup → LightGroup) : (s.mapGroup g f).clock = s.clock := rfl
@[simp] theorem State.mapGroup_choice (s : State) (g : Fin 12) (f : LightGroup → LightGroup) : (s.mapGroup g f).choice = s.choice := rfl
@[simp] theorem State.mapGroup_node (s : State) (g : Fin 12) (f : LightGroup → LightGroup) : (s.mapGroup g f).node = s.node := rfl
@[simp] theorem State.mapGroup_trunk (s : State) (g : Fin 12) (f : LightGroup → LightGroup) : (s.mapGroup g f).trunk = s.trunk := rfl
@[simp] theorem State.mapGroup_spur (s : State) (g : Fin 12) (f : LightGroup → LightGroup) : (s.mapGroup g f).spur = s.spur := rfl
@[simp] theorem State.mapGroup_watch (s : State) (g : Fin 12) (f : LightGroup → LightGroup) : (s.mapGroup g f).watch = s.watch := rfl
@[simp] theorem State.mapGroup_exe (s : State) (g : Fin 12) (f : LightGroup → LightGroup) : (s.mapGroup g f).exe = s.exe := rfl
@[simp] theorem State.mapGroup_store (s : State) (g : Fin 12) (f : LightGroup → LightGroup) : (s.mapGroup g f).store = s.store := rfl
@[simp] theorem State.mapGroup_requests (s : State) (g : Fin 12) (f : LightGroup → LightGroup) : (s.mapGroup g f).requests = s.requests := rfl
@[simp] theorem State.mapGroup_budget (s : State) (g : Fin 12) (f : LightGroup → LightGroup) : (s.mapGroup g f).budget = s.budget := rfl
@[simp] theorem State.mapGroup_permits (s : State) (g : Fin 12) (f : LightGroup → LightGroup) : (s.mapGroup g f).permits = s.permits := rfl
@[simp] theorem State.mapGroup_axes (s : State) (g : Fin 12) (f : LightGroup → LightGroup) : (s.mapGroup g f).axes = s.axes := rfl
@[simp] theorem State.mapGroup_wl (s : State) (g : Fin 12) (f : LightGroup → LightGroup) : (s.mapGroup g f).wl = s.wl := rfl
@[simp] theorem State.mapGroup_out (s : State) (g : Fin 12) (f : LightGroup → LightGroup) : (s.mapGroup g f).out = s.out := rfl
@[simp] theorem State.mapGroup_inp (s : State) (g : Fin 12) (f : LightGroup → LightGroup) : (s.mapGroup g f).inp = s.inp := rfl
@[simp] theorem State.mapGroup_axis (s : State) (g : Fin 12) (f : LightGroup → LightGroup) (x : Axis) : (s.mapGroup g f).axis x = s.axis x := rfl
@[simp] theorem State.mapGroup_port (s : State) (g : Fin 12) (f : LightGroup → LightGroup) (q : Port) : (s.mapGroup g f).port q = s.port q := rfl
@[simp] theorem State.mapGroup_field (s : State) (g : Fin 12) (f : LightGroup → LightGroup) (k : Table) (i : Nat) (w : BitField) : (s.mapGroup g f).field k i w = s.field k i w := rfl

/-! ### `State.setPump` -/

@[simp] theorem State.setPump_pending (s : State) (on : Bool) : (s.setPump on).pending = s.pending := rfl
@[simp] theorem State.setPump_power (s : State) (on : Bool) : (s.setPump on).power = s.power := rfl
@[simp] theorem State.setPump_loadAge (s : State) (on : Bool) : (s.setPump on).loadAge = s.loadAge := rfl
@[simp] theorem State.setPump_clock (s : State) (on : Bool) : (s.setPump on).clock = s.clock := rfl
@[simp] theorem State.setPump_choice (s : State) (on : Bool) : (s.setPump on).choice = s.choice := rfl
@[simp] theorem State.setPump_node (s : State) (on : Bool) : (s.setPump on).node = s.node := rfl
@[simp] theorem State.setPump_trunk (s : State) (on : Bool) : (s.setPump on).trunk = s.trunk := rfl
@[simp] theorem State.setPump_spur (s : State) (on : Bool) : (s.setPump on).spur = s.spur := rfl
@[simp] theorem State.setPump_watch (s : State) (on : Bool) : (s.setPump on).watch = s.watch := rfl
@[simp] theorem State.setPump_exe (s : State) (on : Bool) : (s.setPump on).exe = s.exe := rfl
@[simp] theorem State.setPump_store (s : State) (on : Bool) : (s.setPump on).store = s.store := rfl
@[simp] theorem State.setPump_groups (s : State) (on : Bool) : (s.setPump on).groups = s.groups := rfl
@[simp] theorem State.setPump_requests (s : State) (on : Bool) : (s.setPump on).requests = s.requests := rfl
@[simp] theorem State.setPump_budget (s : State) (on : Bool) : (s.setPump on).budget = s.budget := rfl
@[simp] theorem State.setPump_permits (s : State) (on : Bool) : (s.setPump on).permits = s.permits := rfl
@[simp] theorem State.setPump_axes (s : State) (on : Bool) : (s.setPump on).axes = s.axes := rfl
@[simp] theorem State.setPump_wl (s : State) (on : Bool) : (s.setPump on).wl = s.wl := rfl
@[simp] theorem State.setPump_out_banks (s : State) (on : Bool) : (s.setPump on).out.banks = s.out.banks := rfl
@[simp] theorem State.setPump_out_buffers (s : State) (on : Bool) : (s.setPump on).out.buffers = s.out.buffers := rfl
@[simp] theorem State.setPump_out_loaded (s : State) (on : Bool) : (s.setPump on).out.loaded = s.out.loaded := rfl
@[simp] theorem State.setPump_out_activeHigh (s : State) (on : Bool) : (s.setPump on).out.activeHigh = s.out.activeHigh := rfl
@[simp] theorem State.setPump_out_hold (s : State) (on : Bool) : (s.setPump on).out.hold = s.out.hold := rfl
@[simp] theorem State.setPump_out_platformUp (s : State) (on : Bool) : (s.setPump on).out.platformUp = s.out.platformUp := rfl
@[simp] theorem State.setPump_out_platformDown (s : State) (on : Bool) : (s.setPump on).out.platformDown = s.out.platformDown := rfl
@[simp] theorem State.setPump_out_hatchOpen (s : State) (on : Bool) : (s.setPump on).out.hatchOpen = s.out.hatchOpen := rfl
@[simp] theorem State.setPump_out_hatchClose (s : State) (on : Bool) : (s.setPump on).out.hatchClose = s.out.hatchClose := rfl
@[simp] theorem State.setPump_out_bridge (s : State) (on : Bool) : (s.setPump on).out.bridge = s.out.bridge := rfl
@[simp] theorem State.setPump_inp (s : State) (on : Bool) : (s.setPump on).inp = s.inp := rfl
@[simp] theorem State.setPump_axis (s : State) (on : Bool) (x : Axis) : (s.setPump on).axis x = s.axis x := rfl
@[simp] theorem State.setPump_port (s : State) (on : Bool) (q : Port) : (s.setPump on).port q = s.port q := rfl
@[simp] theorem State.setPump_field (s : State) (on : Bool) (k : Table) (i : Nat) (w : BitField) : (s.setPump on).field k i w = s.field k i w := rfl

/-! ### `State.wantEval` -/

@[simp] theorem State.wantEval_pending (s : State) : (s.wantEval).pending = s.pending := rfl
@[simp] theorem State.wantEval_power (s : State) : (s.wantEval).power = s.power := rfl
@[simp] theorem State.wantEval_loadAge (s : State) : (s.wantEval).loadAge = s.loadAge := rfl
@[simp] theorem State.wantEval_clock (s : State) : (s.wantEval).clock = s.clock := rfl
@[simp] theorem State.wantEval_choice (s : State) : (s.wantEval).choice = s.choice := rfl
@[simp] theorem State.wantEval_node (s : State) : (s.wantEval).node = s.node := rfl
@[simp] theorem State.wantEval_trunk (s : State) : (s.wantEval).trunk = s.trunk := rfl
@[simp] theorem State.wantEval_spur (s : State) : (s.wantEval).spur = s.spur := rfl
@[simp] theorem State.wantEval_watch (s : State) : (s.wantEval).watch = s.watch := rfl
@[simp] theorem State.wantEval_exe (s : State) : (s.wantEval).exe = s.exe := rfl
@[simp] theorem State.wantEval_store (s : State) : (s.wantEval).store = s.store := rfl
@[simp] theorem State.wantEval_groups (s : State) : (s.wantEval).groups = s.groups := rfl
@[simp] theorem State.wantEval_requests (s : State) : (s.wantEval).requests = s.requests := rfl
@[simp] theorem State.wantEval_permits (s : State) : (s.wantEval).permits = s.permits := rfl
@[simp] theorem State.wantEval_axes (s : State) : (s.wantEval).axes = s.axes := rfl
@[simp] theorem State.wantEval_wl (s : State) : (s.wantEval).wl = s.wl := rfl
@[simp] theorem State.wantEval_out (s : State) : (s.wantEval).out = s.out := rfl
@[simp] theorem State.wantEval_inp (s : State) : (s.wantEval).inp = s.inp := rfl
@[simp] theorem State.wantEval_axis (s : State) (x : Axis) : (s.wantEval).axis x = s.axis x := rfl
@[simp] theorem State.wantEval_port (s : State) (q : Port) : (s.wantEval).port q = s.port q := rfl
@[simp] theorem State.wantEval_field (s : State) (k : Table) (i : Nat) (w : BitField) : (s.wantEval).field k i w = s.field k i w := rfl

/-! ### `State.setIntake` -/

@[simp] theorem State.setIntake_pending (s : State) (q : List Request) : (s.setIntake q).pending = s.pending := rfl
@[simp] theorem State.setIntake_power (s : State) (q : List Request) : (s.setIntake q).power = s.power := rfl
@[simp] theorem State.setIntake_loadAge (s : State) (q : List Request) : (s.setIntake q).loadAge = s.loadAge := rfl
@[simp] theorem State.setIntake_clock (s : State) (q : List Request) : (s.setIntake q).clock = s.clock := rfl
@[simp] theorem State.setIntake_choice (s : State) (q : List Request) : (s.setIntake q).choice = s.choice := rfl
@[simp] theorem State.setIntake_node (s : State) (q : List Request) : (s.setIntake q).node = s.node := rfl
@[simp] theorem State.setIntake_trunk (s : State) (q : List Request) : (s.setIntake q).trunk = s.trunk := rfl
@[simp] theorem State.setIntake_spur (s : State) (q : List Request) : (s.setIntake q).spur = s.spur := rfl
@[simp] theorem State.setIntake_watch (s : State) (q : List Request) : (s.setIntake q).watch = s.watch := rfl
@[simp] theorem State.setIntake_exe_takeDue (s : State) (q : List Request) : (s.setIntake q).exe.takeDue = s.exe.takeDue := rfl
@[simp] theorem State.setIntake_exe_saveCtx (s : State) (q : List Request) : (s.setIntake q).exe.saveCtx = s.exe.saveCtx := rfl
@[simp] theorem State.setIntake_exe_saveAge (s : State) (q : List Request) : (s.setIntake q).exe.saveAge = s.exe.saveAge := rfl
@[simp] theorem State.setIntake_exe_cursor (s : State) (q : List Request) : (s.setIntake q).exe.cursor = s.exe.cursor := rfl
@[simp] theorem State.setIntake_exe_assembly (s : State) (q : List Request) : (s.setIntake q).exe.assembly = s.exe.assembly := rfl
@[simp] theorem State.setIntake_exe_readOffset (s : State) (q : List Request) : (s.setIntake q).exe.readOffset = s.exe.readOffset := rfl
@[simp] theorem State.setIntake_exe_latched (s : State) (q : List Request) : (s.setIntake q).exe.latched = s.exe.latched := rfl
@[simp] theorem State.setIntake_exe_events (s : State) (q : List Request) : (s.setIntake q).exe.events = s.exe.events := rfl
@[simp] theorem State.setIntake_exe_pubs (s : State) (q : List Request) : (s.setIntake q).exe.pubs = s.exe.pubs := rfl
@[simp] theorem State.setIntake_exe_refresh (s : State) (q : List Request) : (s.setIntake q).exe.refresh = s.exe.refresh := rfl
@[simp] theorem State.setIntake_store (s : State) (q : List Request) : (s.setIntake q).store = s.store := rfl
@[simp] theorem State.setIntake_groups (s : State) (q : List Request) : (s.setIntake q).groups = s.groups := rfl
@[simp] theorem State.setIntake_requests (s : State) (q : List Request) : (s.setIntake q).requests = s.requests := rfl
@[simp] theorem State.setIntake_budget (s : State) (q : List Request) : (s.setIntake q).budget = s.budget := rfl
@[simp] theorem State.setIntake_permits (s : State) (q : List Request) : (s.setIntake q).permits = s.permits := rfl
@[simp] theorem State.setIntake_axes (s : State) (q : List Request) : (s.setIntake q).axes = s.axes := rfl
@[simp] theorem State.setIntake_wl (s : State) (q : List Request) : (s.setIntake q).wl = s.wl := rfl
@[simp] theorem State.setIntake_out (s : State) (q : List Request) : (s.setIntake q).out = s.out := rfl
@[simp] theorem State.setIntake_inp (s : State) (q : List Request) : (s.setIntake q).inp = s.inp := rfl
@[simp] theorem State.setIntake_axis (s : State) (q : List Request) (x : Axis) : (s.setIntake q).axis x = s.axis x := rfl
@[simp] theorem State.setIntake_port (s : State) (l : List Request) (q : Port) : (s.setIntake l).port q = s.port q := rfl
@[simp] theorem State.setIntake_field (s : State) (q : List Request) (k : Table) (i : Nat) (w : BitField) : (s.setIntake q).field k i w = s.field k i w := rfl

/-! ### `State.setDue` -/

@[simp] theorem State.setDue_pending (s : State) (p : Port) (r : Fin 7) (v : Bool) : (s.setDue p r v).pending = s.pending := rfl
@[simp] theorem State.setDue_power (s : State) (p : Port) (r : Fin 7) (v : Bool) : (s.setDue p r v).power = s.power := rfl
@[simp] theorem State.setDue_loadAge (s : State) (p : Port) (r : Fin 7) (v : Bool) : (s.setDue p r v).loadAge = s.loadAge := rfl
@[simp] theorem State.setDue_clock (s : State) (p : Port) (r : Fin 7) (v : Bool) : (s.setDue p r v).clock = s.clock := rfl
@[simp] theorem State.setDue_choice (s : State) (p : Port) (r : Fin 7) (v : Bool) : (s.setDue p r v).choice = s.choice := rfl
@[simp] theorem State.setDue_node (s : State) (p : Port) (r : Fin 7) (v : Bool) : (s.setDue p r v).node = s.node := rfl
@[simp] theorem State.setDue_trunk (s : State) (p : Port) (r : Fin 7) (v : Bool) : (s.setDue p r v).trunk = s.trunk := rfl
@[simp] theorem State.setDue_spur (s : State) (p : Port) (r : Fin 7) (v : Bool) : (s.setDue p r v).spur = s.spur := rfl
@[simp] theorem State.setDue_watch (s : State) (p : Port) (r : Fin 7) (v : Bool) : (s.setDue p r v).watch = s.watch := rfl
@[simp] theorem State.setDue_exe_intake (s : State) (p : Port) (r : Fin 7) (v : Bool) : (s.setDue p r v).exe.intake = s.exe.intake := rfl
@[simp] theorem State.setDue_exe_takeDue (s : State) (p : Port) (r : Fin 7) (v : Bool) : (s.setDue p r v).exe.takeDue = s.exe.takeDue := rfl
@[simp] theorem State.setDue_exe_saveCtx (s : State) (p : Port) (r : Fin 7) (v : Bool) : (s.setDue p r v).exe.saveCtx = s.exe.saveCtx := rfl
@[simp] theorem State.setDue_exe_saveAge (s : State) (p : Port) (r : Fin 7) (v : Bool) : (s.setDue p r v).exe.saveAge = s.exe.saveAge := rfl
@[simp] theorem State.setDue_exe_cursor (s : State) (p : Port) (r : Fin 7) (v : Bool) : (s.setDue p r v).exe.cursor = s.exe.cursor := rfl
@[simp] theorem State.setDue_exe_assembly (s : State) (p : Port) (r : Fin 7) (v : Bool) : (s.setDue p r v).exe.assembly = s.exe.assembly := rfl
@[simp] theorem State.setDue_exe_readOffset (s : State) (p : Port) (r : Fin 7) (v : Bool) : (s.setDue p r v).exe.readOffset = s.exe.readOffset := rfl
@[simp] theorem State.setDue_exe_latched (s : State) (p : Port) (r : Fin 7) (v : Bool) : (s.setDue p r v).exe.latched = s.exe.latched := rfl
@[simp] theorem State.setDue_exe_events (s : State) (p : Port) (r : Fin 7) (v : Bool) : (s.setDue p r v).exe.events = s.exe.events := rfl
@[simp] theorem State.setDue_exe_refresh (s : State) (p : Port) (r : Fin 7) (v : Bool) : (s.setDue p r v).exe.refresh = s.exe.refresh := rfl
@[simp] theorem State.setDue_store (s : State) (p : Port) (r : Fin 7) (v : Bool) : (s.setDue p r v).store = s.store := rfl
@[simp] theorem State.setDue_groups (s : State) (p : Port) (r : Fin 7) (v : Bool) : (s.setDue p r v).groups = s.groups := rfl
@[simp] theorem State.setDue_requests (s : State) (p : Port) (r : Fin 7) (v : Bool) : (s.setDue p r v).requests = s.requests := rfl
@[simp] theorem State.setDue_budget (s : State) (p : Port) (r : Fin 7) (v : Bool) : (s.setDue p r v).budget = s.budget := rfl
@[simp] theorem State.setDue_permits (s : State) (p : Port) (r : Fin 7) (v : Bool) : (s.setDue p r v).permits = s.permits := rfl
@[simp] theorem State.setDue_axes (s : State) (p : Port) (r : Fin 7) (v : Bool) : (s.setDue p r v).axes = s.axes := rfl
@[simp] theorem State.setDue_wl (s : State) (p : Port) (r : Fin 7) (v : Bool) : (s.setDue p r v).wl = s.wl := rfl
@[simp] theorem State.setDue_out (s : State) (p : Port) (r : Fin 7) (v : Bool) : (s.setDue p r v).out = s.out := rfl
@[simp] theorem State.setDue_inp (s : State) (p : Port) (r : Fin 7) (v : Bool) : (s.setDue p r v).inp = s.inp := rfl
@[simp] theorem State.setDue_axis (s : State) (p : Port) (r : Fin 7) (v : Bool) (x : Axis) : (s.setDue p r v).axis x = s.axis x := rfl
@[simp] theorem State.setDue_port (s : State) (p : Port) (r : Fin 7) (v : Bool) (q : Port) : (s.setDue p r v).port q = s.port q := rfl
@[simp] theorem State.setDue_field (s : State) (p : Port) (r : Fin 7) (v : Bool) (k : Table) (i : Nat) (w : BitField) : (s.setDue p r v).field k i w = s.field k i w := rfl

/-! ### `State.startSpacing` -/

@[simp] theorem State.startSpacing_pending (s : State) (r : Fin 7) : (s.startSpacing r).pending = s.pending := rfl
@[simp] theorem State.startSpacing_power (s : State) (r : Fin 7) : (s.startSpacing r).power = s.power := rfl
@[simp] theorem State.startSpacing_loadAge (s : State) (r : Fin 7) : (s.startSpacing r).loadAge = s.loadAge := rfl
@[simp] theorem State.startSpacing_clock (s : State) (r : Fin 7) : (s.startSpacing r).clock = s.clock := rfl
@[simp] theorem State.startSpacing_choice (s : State) (r : Fin 7) : (s.startSpacing r).choice = s.choice := rfl
@[simp] theorem State.startSpacing_node (s : State) (r : Fin 7) : (s.startSpacing r).node = s.node := rfl
@[simp] theorem State.startSpacing_trunk (s : State) (r : Fin 7) : (s.startSpacing r).trunk = s.trunk := rfl
@[simp] theorem State.startSpacing_spur (s : State) (r : Fin 7) : (s.startSpacing r).spur = s.spur := rfl
@[simp] theorem State.startSpacing_watch (s : State) (r : Fin 7) : (s.startSpacing r).watch = s.watch := rfl
@[simp] theorem State.startSpacing_exe_intake (s : State) (r : Fin 7) : (s.startSpacing r).exe.intake = s.exe.intake := rfl
@[simp] theorem State.startSpacing_exe_takeDue (s : State) (r : Fin 7) : (s.startSpacing r).exe.takeDue = s.exe.takeDue := rfl
@[simp] theorem State.startSpacing_exe_saveCtx (s : State) (r : Fin 7) : (s.startSpacing r).exe.saveCtx = s.exe.saveCtx := rfl
@[simp] theorem State.startSpacing_exe_saveAge (s : State) (r : Fin 7) : (s.startSpacing r).exe.saveAge = s.exe.saveAge := rfl
@[simp] theorem State.startSpacing_exe_cursor (s : State) (r : Fin 7) : (s.startSpacing r).exe.cursor = s.exe.cursor := rfl
@[simp] theorem State.startSpacing_exe_assembly (s : State) (r : Fin 7) : (s.startSpacing r).exe.assembly = s.exe.assembly := rfl
@[simp] theorem State.startSpacing_exe_readOffset (s : State) (r : Fin 7) : (s.startSpacing r).exe.readOffset = s.exe.readOffset := rfl
@[simp] theorem State.startSpacing_exe_latched (s : State) (r : Fin 7) : (s.startSpacing r).exe.latched = s.exe.latched := rfl
@[simp] theorem State.startSpacing_exe_events (s : State) (r : Fin 7) : (s.startSpacing r).exe.events = s.exe.events := rfl
@[simp] theorem State.startSpacing_exe_refresh (s : State) (r : Fin 7) : (s.startSpacing r).exe.refresh = s.exe.refresh := rfl
@[simp] theorem State.startSpacing_store (s : State) (r : Fin 7) : (s.startSpacing r).store = s.store := rfl
@[simp] theorem State.startSpacing_groups (s : State) (r : Fin 7) : (s.startSpacing r).groups = s.groups := rfl
@[simp] theorem State.startSpacing_requests (s : State) (r : Fin 7) : (s.startSpacing r).requests = s.requests := rfl
@[simp] theorem State.startSpacing_budget (s : State) (r : Fin 7) : (s.startSpacing r).budget = s.budget := rfl
@[simp] theorem State.startSpacing_permits (s : State) (r : Fin 7) : (s.startSpacing r).permits = s.permits := rfl
@[simp] theorem State.startSpacing_axes (s : State) (r : Fin 7) : (s.startSpacing r).axes = s.axes := rfl
@[simp] theorem State.startSpacing_wl (s : State) (r : Fin 7) : (s.startSpacing r).wl = s.wl := rfl
@[simp] theorem State.startSpacing_out (s : State) (r : Fin 7) : (s.startSpacing r).out = s.out := rfl
@[simp] theorem State.startSpacing_inp (s : State) (r : Fin 7) : (s.startSpacing r).inp = s.inp := rfl
@[simp] theorem State.startSpacing_axis (s : State) (r : Fin 7) (x : Axis) : (s.startSpacing r).axis x = s.axis x := rfl
@[simp] theorem State.startSpacing_port (s : State) (r : Fin 7) (q : Port) : (s.startSpacing r).port q = s.port q := rfl
@[simp] theorem State.startSpacing_field (s : State) (r : Fin 7) (k : Table) (i : Nat) (w : BitField) : (s.startSpacing r).field k i w = s.field k i w := rfl

/-! ### `State.startRefresh` -/

@[simp] theorem State.startRefresh_pending (s : State) : (s.startRefresh).pending = s.pending := rfl
@[simp] theorem State.startRefresh_power (s : State) : (s.startRefresh).power = s.power := rfl
@[simp] theorem State.startRefresh_loadAge (s : State) : (s.startRefresh).loadAge = s.loadAge := rfl
@[simp] theorem State.startRefresh_clock (s : State) : (s.startRefresh).clock = s.clock := rfl
@[simp] theorem State.startRefresh_choice (s : State) : (s.startRefresh).choice = s.choice := rfl
@[simp] theorem State.startRefresh_node (s : State) : (s.startRefresh).node = s.node := rfl
@[simp] theorem State.startRefresh_trunk (s : State) : (s.startRefresh).trunk = s.trunk := rfl
@[simp] theorem State.startRefresh_spur (s : State) : (s.startRefresh).spur = s.spur := rfl
@[simp] theorem State.startRefresh_watch (s : State) : (s.startRefresh).watch = s.watch := rfl
@[simp] theorem State.startRefresh_exe_intake (s : State) : (s.startRefresh).exe.intake = s.exe.intake := rfl
@[simp] theorem State.startRefresh_exe_takeDue (s : State) : (s.startRefresh).exe.takeDue = s.exe.takeDue := rfl
@[simp] theorem State.startRefresh_exe_saveCtx (s : State) : (s.startRefresh).exe.saveCtx = s.exe.saveCtx := rfl
@[simp] theorem State.startRefresh_exe_saveAge (s : State) : (s.startRefresh).exe.saveAge = s.exe.saveAge := rfl
@[simp] theorem State.startRefresh_exe_cursor (s : State) : (s.startRefresh).exe.cursor = s.exe.cursor := rfl
@[simp] theorem State.startRefresh_exe_assembly (s : State) : (s.startRefresh).exe.assembly = s.exe.assembly := rfl
@[simp] theorem State.startRefresh_exe_readOffset (s : State) : (s.startRefresh).exe.readOffset = s.exe.readOffset := rfl
@[simp] theorem State.startRefresh_exe_latched (s : State) : (s.startRefresh).exe.latched = s.exe.latched := rfl
@[simp] theorem State.startRefresh_exe_events (s : State) : (s.startRefresh).exe.events = s.exe.events := rfl
@[simp] theorem State.startRefresh_exe_pubs (s : State) : (s.startRefresh).exe.pubs = s.exe.pubs := rfl
@[simp] theorem State.startRefresh_store (s : State) : (s.startRefresh).store = s.store := rfl
@[simp] theorem State.startRefresh_groups (s : State) : (s.startRefresh).groups = s.groups := rfl
@[simp] theorem State.startRefresh_requests (s : State) : (s.startRefresh).requests = s.requests := rfl
@[simp] theorem State.startRefresh_budget (s : State) : (s.startRefresh).budget = s.budget := rfl
@[simp] theorem State.startRefresh_permits (s : State) : (s.startRefresh).permits = s.permits := rfl
@[simp] theorem State.startRefresh_axes (s : State) : (s.startRefresh).axes = s.axes := rfl
@[simp] theorem State.startRefresh_wl (s : State) : (s.startRefresh).wl = s.wl := rfl
@[simp] theorem State.startRefresh_out (s : State) : (s.startRefresh).out = s.out := rfl
@[simp] theorem State.startRefresh_inp (s : State) : (s.startRefresh).inp = s.inp := rfl
@[simp] theorem State.startRefresh_axis (s : State) (x : Axis) : (s.startRefresh).axis x = s.axis x := rfl
@[simp] theorem State.startRefresh_port (s : State) (q : Port) : (s.startRefresh).port q = s.port q := rfl
@[simp] theorem State.startRefresh_field (s : State) (k : Table) (i : Nat) (w : BitField) : (s.startRefresh).field k i w = s.field k i w := rfl

/-! ### `State.emptySlots` -/

@[simp] theorem State.emptySlots_pending (s : State) : (s.emptySlots).pending = s.pending := rfl
@[simp] theorem State.emptySlots_power (s : State) : (s.emptySlots).power = s.power := rfl
@[simp] theorem State.emptySlots_loadAge (s : State) : (s.emptySlots).loadAge = s.loadAge := rfl
@[simp] theorem State.emptySlots_clock (s : State) : (s.emptySlots).clock = s.clock := rfl
@[simp] theorem State.emptySlots_choice (s : State) : (s.emptySlots).choice = s.choice := rfl
@[simp] theorem State.emptySlots_node (s : State) : (s.emptySlots).node = s.node := rfl
@[simp] theorem State.emptySlots_trunk (s : State) : (s.emptySlots).trunk = s.trunk := rfl
@[simp] theorem State.emptySlots_spur (s : State) : (s.emptySlots).spur = s.spur := rfl
@[simp] theorem State.emptySlots_exe (s : State) : (s.emptySlots).exe = s.exe := rfl
@[simp] theorem State.emptySlots_store (s : State) : (s.emptySlots).store = s.store := rfl
@[simp] theorem State.emptySlots_groups (s : State) : (s.emptySlots).groups = s.groups := rfl
@[simp] theorem State.emptySlots_requests (s : State) : (s.emptySlots).requests = s.requests := rfl
@[simp] theorem State.emptySlots_budget (s : State) : (s.emptySlots).budget = s.budget := rfl
@[simp] theorem State.emptySlots_permits (s : State) : (s.emptySlots).permits = s.permits := rfl
@[simp] theorem State.emptySlots_axes (s : State) : (s.emptySlots).axes = s.axes := rfl
@[simp] theorem State.emptySlots_wl (s : State) : (s.emptySlots).wl = s.wl := rfl
@[simp] theorem State.emptySlots_out (s : State) : (s.emptySlots).out = s.out := rfl
@[simp] theorem State.emptySlots_inp (s : State) : (s.emptySlots).inp = s.inp := rfl
@[simp] theorem State.emptySlots_axis (s : State) (x : Axis) : (s.emptySlots).axis x = s.axis x := rfl
@[simp] theorem State.emptySlots_port (s : State) (q : Port) : (s.emptySlots).port q = s.port q := rfl
@[simp] theorem State.emptySlots_field (s : State) (k : Table) (i : Nat) (w : BitField) : (s.emptySlots).field k i w = s.field k i w := rfl

/-! ### `State.releaseSource` -/

@[simp] theorem State.releaseSource_pending (s : State) (n : Nat) : (s.releaseSource n).pending = s.pending := rfl
@[simp] theorem State.releaseSource_power (s : State) (n : Nat) : (s.releaseSource n).power = s.power := rfl
@[simp] theorem State.releaseSource_loadAge (s : State) (n : Nat) : (s.releaseSource n).loadAge = s.loadAge := rfl
@[simp] theorem State.releaseSource_clock (s : State) (n : Nat) : (s.releaseSource n).clock = s.clock := rfl
@[simp] theorem State.releaseSource_choice (s : State) (n : Nat) : (s.releaseSource n).choice = s.choice := rfl
@[simp] theorem State.releaseSource_node (s : State) (n : Nat) : (s.releaseSource n).node = s.node := rfl
@[simp] theorem State.releaseSource_trunk (s : State) (n : Nat) : (s.releaseSource n).trunk = s.trunk := rfl
@[simp] theorem State.releaseSource_spur (s : State) (n : Nat) : (s.releaseSource n).spur = s.spur := rfl
@[simp] theorem State.releaseSource_watch (s : State) (n : Nat) : (s.releaseSource n).watch = s.watch := rfl
@[simp] theorem State.releaseSource_exe (s : State) (n : Nat) : (s.releaseSource n).exe = s.exe := rfl
@[simp] theorem State.releaseSource_store (s : State) (n : Nat) : (s.releaseSource n).store = s.store := rfl
@[simp] theorem State.releaseSource_requests (s : State) (n : Nat) : (s.releaseSource n).requests = s.requests := rfl
@[simp] theorem State.releaseSource_budget (s : State) (n : Nat) : (s.releaseSource n).budget = s.budget := rfl
@[simp] theorem State.releaseSource_permits (s : State) (n : Nat) : (s.releaseSource n).permits = s.permits := rfl
@[simp] theorem State.releaseSource_axes (s : State) (n : Nat) : (s.releaseSource n).axes = s.axes := rfl
@[simp] theorem State.releaseSource_wl (s : State) (n : Nat) : (s.releaseSource n).wl = s.wl := rfl
@[simp] theorem State.releaseSource_out (s : State) (n : Nat) : (s.releaseSource n).out = s.out := rfl
@[simp] theorem State.releaseSource_inp (s : State) (n : Nat) : (s.releaseSource n).inp = s.inp := rfl
@[simp] theorem State.releaseSource_axis (s : State) (n : Nat) (x : Axis) : (s.releaseSource n).axis x = s.axis x := rfl
@[simp] theorem State.releaseSource_port (s : State) (n : Nat) (q : Port) : (s.releaseSource n).port q = s.port q := rfl
@[simp] theorem State.releaseSource_field (s : State) (n : Nat) (k : Table) (i : Nat) (w : BitField) : (s.releaseSource n).field k i w = s.field k i w := rfl

/-! ### `State.setBusy` -/

@[simp] theorem State.setBusy_pending (s : State) (p : Port) (b : Bool) : (s.setBusy p b).pending = s.pending := by cases p <;> rfl
@[simp] theorem State.setBusy_power (s : State) (p : Port) (b : Bool) : (s.setBusy p b).power = s.power := by cases p <;> rfl
@[simp] theorem State.setBusy_loadAge (s : State) (p : Port) (b : Bool) : (s.setBusy p b).loadAge = s.loadAge := by cases p <;> rfl
@[simp] theorem State.setBusy_clock (s : State) (p : Port) (b : Bool) : (s.setBusy p b).clock = s.clock := by cases p <;> rfl
@[simp] theorem State.setBusy_choice (s : State) (p : Port) (b : Bool) : (s.setBusy p b).choice = s.choice := by cases p <;> rfl
@[simp] theorem State.setBusy_node (s : State) (p : Port) (b : Bool) : (s.setBusy p b).node = s.node := by cases p <;> rfl
@[simp] theorem State.setBusy_trunk (s : State) (p : Port) (b : Bool) : (s.setBusy p b).trunk = s.trunk := by cases p <;> rfl
@[simp] theorem State.setBusy_spur (s : State) (p : Port) (b : Bool) : (s.setBusy p b).spur = s.spur := by cases p <;> rfl
@[simp] theorem State.setBusy_watch (s : State) (p : Port) (b : Bool) : (s.setBusy p b).watch = s.watch := by cases p <;> rfl
@[simp] theorem State.setBusy_exe (s : State) (p : Port) (b : Bool) : (s.setBusy p b).exe = s.exe := by cases p <;> rfl
@[simp] theorem State.setBusy_store (s : State) (p : Port) (b : Bool) : (s.setBusy p b).store = s.store := by cases p <;> rfl
@[simp] theorem State.setBusy_groups (s : State) (p : Port) (b : Bool) : (s.setBusy p b).groups = s.groups := by cases p <;> rfl
@[simp] theorem State.setBusy_requests (s : State) (p : Port) (b : Bool) : (s.setBusy p b).requests = s.requests := by cases p <;> rfl
@[simp] theorem State.setBusy_budget (s : State) (p : Port) (b : Bool) : (s.setBusy p b).budget = s.budget := by cases p <;> rfl
@[simp] theorem State.setBusy_permits (s : State) (p : Port) (b : Bool) : (s.setBusy p b).permits = s.permits := by cases p <;> rfl
@[simp] theorem State.setBusy_axes (s : State) (p : Port) (b : Bool) : (s.setBusy p b).axes = s.axes := by cases p <;> rfl
@[simp] theorem State.setBusy_wl (s : State) (p : Port) (b : Bool) : (s.setBusy p b).wl = s.wl := by cases p <;> rfl
@[simp] theorem State.setBusy_out (s : State) (p : Port) (b : Bool) : (s.setBusy p b).out = s.out := by cases p <;> rfl
@[simp] theorem State.setBusy_inp_debounced (s : State) (p : Port) (b : Bool) : (s.setBusy p b).inp.debounced = s.inp.debounced := by cases p <;> rfl
@[simp] theorem State.setBusy_inp_estopHigh (s : State) (p : Port) (b : Bool) : (s.setBusy p b).inp.estopHigh = s.inp.estopHigh := by cases p <;> rfl
@[simp] theorem State.setBusy_inp_estopSample (s : State) (p : Port) (b : Bool) : (s.setBusy p b).inp.estopSample = s.inp.estopSample := by cases p <;> rfl
@[simp] theorem State.setBusy_inp_estopActive (s : State) (p : Port) (b : Bool) : (s.setBusy p b).inp.estopActive = s.inp.estopActive := by cases p <;> rfl
@[simp] theorem State.setBusy_inp_overHigh (s : State) (p : Port) (b : Bool) : (s.setBusy p b).inp.overHigh = s.inp.overHigh := by cases p <;> rfl
@[simp] theorem State.setBusy_inp_overSample (s : State) (p : Port) (b : Bool) : (s.setBusy p b).inp.overSample = s.inp.overSample := by cases p <;> rfl
@[simp] theorem State.setBusy_inp_overActive (s : State) (p : Port) (b : Bool) : (s.setBusy p b).inp.overActive = s.inp.overActive := by cases p <;> rfl
@[simp] theorem State.setBusy_axis (s : State) (p : Port) (b : Bool) (x : Axis) : (s.setBusy p b).axis x = s.axis x := by cases p <;> rfl
@[simp] theorem State.setBusy_port (s : State) (p : Port) (b : Bool) (q : Port) : (s.setBusy p b).port q = s.port q := by cases p <;> cases q <;> rfl
@[simp] theorem State.setBusy_field (s : State) (p : Port) (b : Bool) (k : Table) (i : Nat) (w : BitField) : (s.setBusy p b).field k i w = s.field k i w := by cases p <;> rfl

/-! ### Reading back -/

@[simp] theorem PerAxis.get_set_same {α : Type} (p : PerAxis α) (a : Axis) (x : α) : (p.set a x).get a = x := by
  cases a <;> rfl

theorem PerAxis.get_set_other {α : Type} (p : PerAxis α) {a b : Axis} (x : α) (h : b ≠ a) :
    (p.set a x).get b = p.get b := by
  cases a <;> cases b <;> first | rfl | exact absurd rfl h

@[simp] theorem State.axis_setAxis_same (s : State) (a : Axis) (x : AxisState) : (s.setAxis a x).axis a = x :=
  PerAxis.get_set_same _ _ _

theorem State.axis_setAxis_other (s : State) {a b : Axis} (x : AxisState) (h : b ≠ a) :
    (s.setAxis a x).axis b = s.axis b :=
  PerAxis.get_set_other _ _ h

@[simp] theorem State.axis_mapAxis_same (s : State) (a : Axis) (f : AxisState → AxisState) :
    (s.mapAxis a f).axis a = f (s.axis a) :=
  PerAxis.get_set_same _ _ _

theorem State.axis_mapAxis_other (s : State) {a b : Axis} (f : AxisState → AxisState) (h : b ≠ a) :
    (s.mapAxis a f).axis b = s.axis b :=
  PerAxis.get_set_other _ _ h

@[simp] theorem State.port_setPort_same (s : State) (p : Port) (x : PortState) : (s.setPort p x).port p = x := by
  cases p <;> rfl

theorem State.port_setPort_other (s : State) {p q : Port} (x : PortState) (h : q ≠ p) :
    (s.setPort p x).port q = s.port q := by
  cases p <;> cases q <;> first | rfl | exact absurd rfl h

@[simp] theorem State.port_mapPort_same (s : State) (p : Port) (f : PortState → PortState) :
    (s.mapPort p f).port p = f (s.port p) :=
  State.port_setPort_same _ _ _

theorem State.port_mapPort_other (s : State) {p q : Port} (f : PortState → PortState) (h : q ≠ p) :
    (s.mapPort p f).port q = s.port q :=
  State.port_setPort_other _ _ h

@[simp] theorem State.busy_setBusy_same (s : State) (p : Port) (b : Bool) : (s.setBusy p b).inp.busy p = b := by
  cases p <;> rfl

theorem State.busy_setBusy_other (s : State) {p q : Port} (b : Bool) (h : q ≠ p) :
    (s.setBusy p b).inp.busy q = s.inp.busy q := by
  cases p <;> cases q <;> first | rfl | exact absurd rfl h

@[simp] theorem vmap_get {α β : Type} {n : Nat} (f : Fin n → α → β) (v : Vector α n) (i : Fin n) :
    (vmap f v)[i] = f i v[i] := by
  simp [vmap]

@[simp] theorem vupdate_get_same {α : Type} {n : Nat} (v : Vector α n) (i : Fin n) (f : α → α) :
    (vupdate v i f)[i] = f v[i] := by
  simp [vupdate]

theorem vupdate_get_other {α : Type} {n : Nat} (v : Vector α n) {i j : Fin n} (f : α → α) (h : j ≠ i) :
    (vupdate v i f)[j] = v[j] := by
  have : i.val ≠ j.val := fun e => h (Fin.ext e.symm)
  simp [vupdate, this]

/-- The mask of an event has the bit of that event alone. -/
theorem Event.mask_bit (e f : Event) : e.mask.getLsb f.number = decide (f = e) := by
  cases e <;> cases f <;> rfl

theorem State.raised_raise_iff (s : State) (e f : Event) : (s.raise e).raised f = (s.raised f || decide (f = e)) := by
  rw [← Event.mask_bit]
  exact BitVec.getElem_or ..

/-- An event flag stands after its raise. -/
@[simp] theorem State.raised_raise (s : State) (e : Event) : (s.raise e).raised e = true := by
  simp [State.raised_raise_iff]

/-- The raise of an event leaves every other flag (R69). -/
theorem State.raised_raise_other (s : State) {e f : Event} (h : f ≠ e) : (s.raise e).raised f = s.raised f := by
  simp [State.raised_raise_iff, h]

/-! ### The port, the axis and the fields of the active tables under updates of other parts -/

/-- A field of the active tables depends on the active bank alone. -/
theorem State.field_congr {s t : State} (h : t.store.active = s.store.active) (k : Table) (i : Nat) (f : BitField) :
    t.field k i f = s.field k i f := by
  simp [State.field, h]

end Sys2Proof.Machine
end

