-- ==== Sys2Proof/Laws/Changes.lean ====
section
/-! SUPPORT. What each shared operation may change: frames compose, and each operation has one lemma that lists the parts of
the state it touches. -/

namespace Sys2Proof.Machine

/-! ### Frames compose -/

theorem Changes.refl (l : List Part) (s : State) : Changes l s s := by
  intro p _
  cases p <;> first | rfl | exact ⟨rfl, rfl⟩

theorem Part.same_trans {s t u : State} {p : Part} (h : p.same s t) (k : p.same t u) : p.same s u := by
  cases p <;> first | exact Eq.trans k h | exact ⟨k.1.trans h.1, k.2.trans h.2⟩

theorem Changes.seq {l : List Part} {s t u : State} (h : Changes l s t) (k : Changes l t u) : Changes l s u :=
  fun p hp => Part.same_trans (h p hp) (k p hp)

theorem Changes.mono {l l' : List Part} {s t : State} (h : Changes l s t) (sub : ∀ p ∈ l, p ∈ l') : Changes l' s t :=
  fun p hp => h p fun q => hp (sub p q)

theorem Changes.trans {l l' : List Part} {s t u : State} (h : Changes l s t) (k : Changes l' t u) :
    Changes (l ++ l') s u :=
  (h.mono fun _ q => List.mem_append_left _ q).seq (k.mono fun _ q => List.mem_append_right _ q)

/-- The active bank is as it was, so every field of the active tables reads as it did. -/
theorem Changes.field {l : List Part} {s t : State} (h : Changes l s t) (ha : Part.active ∉ l) (k : Table) (i : Nat)
    (f : BitField) : t.field k i f = s.field k i f :=
  State.field_congr (h .active ha) k i f

theorem Changes.axis {l : List Part} {s t : State} (h : Changes l s t) {a : Axis} (ha : Part.axis a ∉ l) :
    t.axis a = s.axis a :=
  h (.axis a) ha

/-! ### One field replaced -/

theorem with_budget (s : State) (b : Budget) :
    Changes [.budget] s { s with budget := b } := by
  intro p hp
  cases p <;> first | exact absurd (by decide) hp | rfl | exact ⟨rfl, rfl⟩

theorem with_requests_budget (s : State) (r : Vector Nat 24) (b : Budget) :
    Changes [.requests, .budget] s { s with requests := r, budget := b } := by
  intro p hp
  cases p <;> first | exact absurd (by decide) hp | rfl | exact ⟨rfl, rfl⟩

theorem with_budget_buffers (s : State) (b : Budget) (v : Vector Nat 24) :
    Changes [.budget, .buffers] s { s with budget := b, out := { s.out with buffers := v } } := by
  intro p hp
  cases p <;> first | exact absurd (by decide) hp | rfl | exact ⟨rfl, rfl⟩

theorem with_windlass (s : State) (w : Windlass) :
    Changes [.windlass] s { s with wl := w } := by
  intro p hp
  cases p <;> first | exact absurd (by decide) hp | rfl | exact ⟨rfl, rfl⟩

theorem with_windlass_bridge (s : State) (w : Windlass) (b : Bridge) :
    Changes [.windlass, .bridge] s { s with wl := w, out := { s.out with bridge := b } } := by
  intro p hp
  cases p <;> first | exact absurd (by decide) hp | rfl | exact ⟨rfl, rfl⟩

theorem with_groups (s : State) (g : Vector LightGroup 12) :
    Changes [.groups] s { s with groups := g } := by
  intro p hp
  cases p <;> first | exact absurd (by decide) hp | rfl | exact ⟨rfl, rfl⟩

theorem with_watch (s : State) (v : Vector Slot 32) :
    Changes [.watch] s { s with watch := v } := by
  intro p hp
  cases p <;> first | exact absurd (by decide) hp | rfl | exact ⟨rfl, rfl⟩

theorem with_permits (s : State) (x : Permits) :
    Changes [.permits] s { s with permits := x } := by
  intro p hp
  cases p <;> first | exact absurd (by decide) hp | rfl | exact ⟨rfl, rfl⟩

theorem with_choice (s : State) (n : Nat) :
    Changes [.choice] s { s with choice := n } := by
  intro p hp
  cases p <;> first | exact absurd (by decide) hp | rfl | exact ⟨rfl, rfl⟩

theorem with_inputs (s : State) (x : Inputs) :
    Changes [.inputs] s { s with inp := x } := by
  intro p hp
  cases p <;> first | exact absurd (by decide) hp | rfl | exact ⟨rfl, rfl⟩

theorem with_pumpList (s : State) (l : List Hyd) :
    Changes [.pumpList] s { s with axes := { s.axes with pumpList := l } } := by
  intro p hp
  cases p <;> first | exact absurd (by decide) hp | rfl | exact ⟨rfl, rfl⟩

theorem with_latch (s : State) (b : Bool) :
    Changes [.latch] s { s with axes := { s.axes with latch := b } } := by
  intro p hp
  cases p <;> first | exact absurd (by decide) hp | rfl | exact ⟨rfl, rfl⟩

theorem with_pubs (s : State) (v : Vector PubState 7) :
    Changes [.pubs] s { s with exe := { s.exe with pubs := v } } := by
  intro p hp
  cases p <;> first | exact absurd (by decide) hp | rfl | exact ⟨rfl, rfl⟩

theorem with_commit (s : State) (b : Bool) :
    Changes [.commit] s { s with store := { s.store with commitPending := b } } := by
  intro p hp
  cases p <;> first | exact absurd (by decide) hp | rfl | exact ⟨rfl, rfl⟩

theorem with_shadow (s : State) (b : Bank) :
    Changes [.shadow] s { s with store := { s.store with shadow := b } } := by
  intro p hp
  cases p <;> first | exact absurd (by decide) hp | rfl | exact ⟨rfl, rfl⟩

theorem with_events (s : State) (e : BitVec 16) :
    Changes [.events] s { s with exe := { s.exe with events := e } } := by
  intro p hp
  cases p <;> first | exact absurd (by decide) hp | rfl | exact ⟨rfl, rfl⟩

/-! ### Small updates -/

theorem raise_changes (s : State) (e : Event) : Changes [.events] s (s.raise e) := by
  intro p hp
  cases p <;> first | rfl | exact ⟨rfl, rfl⟩ | exact absurd (by decide) hp

theorem raiseIf_changes (s : State) (c : Bool) (e : Event) : Changes [.events] s (s.raiseIf c e) := by
  cases c
  · exact Changes.refl _ _
  · exact raise_changes s e

theorem mapAxis_changes (s : State) (a : Axis) (f : AxisState → AxisState) : Changes [.axis a] s (s.mapAxis a f) := by
  intro p hp
  cases p <;>
    first
      | rfl
      | exact ⟨rfl, rfl⟩
      | exact State.axis_mapAxis_other _ _ fun h => hp (by rw [h]; exact List.mem_cons_self)

theorem setPort_changes (s : State) (p : Port) (x : PortState) :
    Changes [.link p, .fwd p, .own p] s (s.setPort p x) := by
  intro q hq
  cases p <;> rcases q with (_ | _ | _ | _ | _ | (_ | _) | (_ | _) | (_ | _) | _) <;>
    first | rfl | exact ⟨rfl, rfl⟩ | exact absurd (by decide) hq

theorem mapGroup_changes (s : State) (g : Fin 12) (f : LightGroup → LightGroup) : Changes [.groups] s (s.mapGroup g f) := by
  intro p hp
  cases p <;> first | rfl | exact ⟨rfl, rfl⟩ | exact absurd (by decide) hp

theorem releaseSource_changes (s : State) (n : Nat) : Changes [.groups] s (s.releaseSource n) := by
  intro p hp
  cases p <;> first | rfl | exact ⟨rfl, rfl⟩ | exact absurd (by decide) hp

theorem setPump_changes (s : State) (on : Bool) : Changes [.valves] s (s.setPump on) := by
  intro p hp
  cases p <;> first | rfl | exact ⟨rfl, rfl⟩ | exact absurd (by decide) hp

theorem setBusy_changes (s : State) (p : Port) (b : Bool) : Changes [.inputs] s (s.setBusy p b) := by
  intro q hq
  cases p <;> cases q <;> first | rfl | exact ⟨rfl, rfl⟩ | exact absurd (by decide) hq

theorem wantEval_changes (s : State) : Changes [.budget] s s.wantEval := by
  intro p hp
  cases p <;> first | rfl | exact ⟨rfl, rfl⟩ | exact absurd (by decide) hp

theorem setIntake_changes (s : State) (q : List Request) : Changes [.intake] s (s.setIntake q) := by
  intro p hp
  cases p <;> first | rfl | exact ⟨rfl, rfl⟩ | exact absurd (by decide) hp

theorem startRefresh_changes (s : State) : Changes [.refresh] s s.startRefresh := by
  intro p hp
  cases p <;> first | rfl | exact ⟨rfl, rfl⟩ | exact absurd (by decide) hp

theorem emptySlots_changes (s : State) : Changes [.watch] s s.emptySlots := by
  intro p hp
  cases p <;> first | rfl | exact ⟨rfl, rfl⟩ | exact absurd (by decide) hp

theorem derivePosition_changes (s : State) (a : Axis) : Changes [.axis a] s (s.derivePosition a) :=
  mapAxis_changes s a _

theorem takeInput_changes (s : State) (i : Fin 13) (v : Bool) : Changes [.inputs] s (s.takeInput i v) := by
  intro p hp
  cases p <;> first | rfl | exact ⟨rfl, rfl⟩ | exact absurd (by decide) hp

/-! ### The budget unit -/

theorem refreshRequests_changes (s : State) : Changes [.requests, .budget] s s.refreshRequests := by
  unfold State.refreshRequests
  dsimp only
  split
  · exact Changes.refl _ _
  · exact with_requests_budget _ _ _

theorem takeSource_changes (s : State) : Changes [.events, .budget] s s.takeSource := by
  unfold State.takeSource
  dsimp only
  exact Changes.trans (raiseIf_changes s _ _) (with_budget _ _)

theorem admit_changes (s : State) (a : Axis) : Changes [.budget, .axis a] s (s.grantAdmission a) := by
  unfold State.grantAdmission
  exact (with_budget _ _).trans (mapAxis_changes _ a _)

/-- Testing the waiters changes the budget unit and axes among the waiters. -/
theorem testWaiters_changes (n : Nat) (l : List Axis) (s : State) :
    Changes (.budget :: l.map .axis) s (s.testWaiters n l) := by
  induction l generalizing s with
  | nil => exact Changes.refl _ _
  | cons a l ih =>
    unfold State.testWaiters
    dsimp only
    refine Changes.seq (t := if _ then s.grantAdmission a else s) ?_ ((ih _).mono ?_)
    · split
      · refine (admit_changes s a).mono ?_
        simp
      · exact Changes.refl _ _
    · simp only [List.map_cons, List.mem_cons]
      rintro p (h | h)
      · exact .inl h
      · exact .inr (.inr h)

theorem takeVerdict_changes (s : State) (v : Verdict) : Changes [.events, .budget, .buffers] s (s.takeVerdict v) := by
  unfold State.takeVerdict
  dsimp only
  exact (raiseIf_changes s _ _).trans (with_budget_buffers _ _ _)

theorem takeSource_waiters (s : State) : s.takeSource.budget.waiters = s.budget.waiters := by
  simp [State.takeSource]

/-- An evaluation changes the flags, the budget unit, the duty buffers, and the admitted mark of waiters. -/
theorem evaluate_changes (s : State) :
    Changes ([.events, .budget, .buffers] ++ s.budget.waiters.map .axis) s s.evaluate := by
  have h1 := takeSource_changes s
  have h2 := testWaiters_changes (floorDraw s.takeSource.chans) s.takeSource.budget.waiters s.takeSource
  have h3 := takeVerdict_changes
    (s.takeSource.testWaiters (floorDraw s.takeSource.chans) s.takeSource.budget.waiters)
    (verdict (s.takeSource.testWaiters (floorDraw s.takeSource.chans) s.takeSource.budget.waiters).chans
      (s.takeSource.testWaiters (floorDraw s.takeSource.chans) s.takeSource.budget.waiters).budget.limit
      ((s.takeSource.testWaiters (floorDraw s.takeSource.chans) s.takeSource.budget.waiters).zone Zone.baseDraw +
        (s.takeSource.testWaiters (floorDraw s.takeSource.chans) s.takeSource.budget.waiters).reserved))
  refine ((h1.trans h2).trans h3).mono ?_
  rw [takeSource_waiters]
  simp only [List.mem_append, List.mem_cons, List.not_mem_nil, or_false]
  tauto

theorem refreshRequests_waiters (s : State) : s.refreshRequests.budget.waiters = s.budget.waiters := by
  unfold State.refreshRequests
  dsimp only
  split <;> rfl

/-- The requests and, where it is called for, an evaluation. -/
theorem evalIfDue_changes (s : State) : Changes (evaluated ++ s.budget.waiters.map .axis) s s.evalIfDue := by
  have h1 : Changes (evaluated ++ s.budget.waiters.map .axis) s s.refreshRequests :=
    (refreshRequests_changes s).mono fun p h => List.mem_append_left _ (by revert p; decide)
  have h2 : Changes (evaluated ++ s.budget.waiters.map .axis) s.refreshRequests s.refreshRequests.evaluate := by
    refine (evaluate_changes s.refreshRequests).mono ?_
    rw [refreshRequests_waiters]
    intro p h
    rcases List.mem_append.1 h with h | h
    · exact List.mem_append_left _ ((by decide : ∀ p ∈ [Part.events, .budget, .buffers], p ∈ evaluated) p h)
    · exact List.mem_append_right _ h
  rw [State.evalIfDue]
  generalize s.refreshRequests = t at h1 h2 ⊢
  by_cases h : t.budget.evalDue = true
  · rw [if_pos h]
    exact h1.seq h2
  · rw [if_neg h]
    exact h1

theorem axis_mem_moving (a : Axis) : Part.axis a ∈ moving := by cases a <;> decide

theorem evalIfDue_moving (s : State) : Changes moving s s.evalIfDue := by
  refine (evalIfDue_changes s).mono ?_
  intro p hp
  rcases List.mem_append.1 hp with h | h
  · exact List.mem_append_left _ h
  · obtain ⟨a, -, rfl⟩ := List.mem_map.1 h
    exact axis_mem_moving a

/-! ### Replies and records -/

/-- An update of a port that keeps its link and its forward queue changes its own queue alone. -/
theorem mapPort_own_changes (s : State) (p : Port) (f : PortState → PortState)
    (hl : (f (s.port p)).link = (s.port p).link) (hf : (f (s.port p)).fwd = (s.port p).fwd) :
    Changes [.own p] s (s.mapPort p f) := by
  intro q hq
  cases p <;> rcases q with (_ | _ | _ | _ | _ | (_ | _) | (_ | _) | (_ | _) | _) <;>
    first | exact absurd (by decide) hq | rfl | exact ⟨rfl, rfl⟩ | exact hl | exact hf

theorem setDue_changes (s : State) (p : Port) (r : Fin 7) (v : Bool) : Changes [.pubs] s (s.setDue p r v) :=
  with_pubs _ _

theorem startSpacing_changes (s : State) (r : Fin 7) : Changes [.pubs] s (s.startSpacing r) := with_pubs _ _

theorem sendReply_changes (s : State) (r : Request) (res : Result) (d : List Byte) :
    Changes [.own r.port, .events] s (s.sendReply r res d) := by
  unfold State.sendReply
  split
  · exact (raise_changes s _).mono (by simp)
  · exact (mapPort_own_changes s r.port _ rfl rfl).mono (by simp)

theorem answer_changes (s : State) (r : Request) (res : Result) (d : List Byte) :
    Changes [.own r.port, .events] s (s.answer r res d) := by
  unfold State.answer
  split
  · exact Changes.refl _ _
  · exact sendReply_changes s r res d

theorem joinRecord_changes (s : State) (p : Port) (r : Fin 7) : Changes [.own p, .pubs] s (s.joinRecord p r) :=
  (mapPort_own_changes s p _ rfl rfl).trans (startSpacing_changes _ r)

/-- Queuing a record on a port (R64). -/
theorem queueRecord_changes (s : State) (p : Port) (r : Fin 7) :
    Changes [.own p, .pubs, .events] s (s.queueRecord p r) := by
  unfold State.queueRecord
  dsimp only
  split
  · exact (mapPort_own_changes s p _ rfl rfl).mono (by simp)
  · split
    · exact Changes.refl _ _
    · split
      · exact (joinRecord_changes s p r).mono (by simp)
      · split
        · exact Changes.refl _ _
        · refine (((mapPort_own_changes s p _ rfl rfl).trans (raise_changes _ _)).trans (joinRecord_changes _ p r)).mono ?_
          simp

theorem own_sub_published (p : Port) : ∀ q ∈ [Part.own p, .pubs, .events], q ∈ published := by cases p <;> decide

theorem queueRecord_published (s : State) (p : Port) (r : Fin 7) : Changes published s (s.queueRecord p r) :=
  (queueRecord_changes s p r).mono (own_sub_published p)

theorem setDue_published (s : State) (p : Port) (r : Fin 7) (v : Bool) : Changes published s (s.setDue p r v) :=
  (setDue_changes s p r v).mono (by decide)

theorem answer_published (s : State) (r : Request) (res : Result) (d : List Byte) :
    Changes published s (s.answer r res d) := by
  refine (answer_changes s r res d).mono ?_
  cases r.port <;> decide

theorem sendReply_published (s : State) (r : Request) (res : Result) (d : List Byte) :
    Changes published s (s.sendReply r res d) := by
  refine (sendReply_changes s r res d).mono ?_
  cases r.port <;> decide

theorem changeOnPort_published (s : State) (r : Fin 7) (x : Bool) (p : Port) :
    Changes published s (s.changeOnPort r x p) := by
  unfold State.changeOnPort
  split
  · split
    · exact queueRecord_published _ _ _
    · split
      · exact queueRecord_published _ _ _
      · exact setDue_published _ _ _ _
  · exact Changes.refl _ _

theorem publishOne_published (s : State) (r : Fin 7) : Changes published s (s.publishOne r) := by
  unfold State.publishOne
  dsimp only
  split
  · exact Changes.refl _ _
  · exact (((with_pubs s _).mono (by decide)).seq (changeOnPort_published _ r _ .trunk)).seq
      (changeOnPort_published _ r _ .spur)

/-- The results handed on change what a publication may. -/
theorem handOn_published (s : State) : Changes published s s.handOn := by
  unfold State.handOn
  split
  · exact publishOne_published s 0
  · exact Changes.refl _ _

theorem moving_follow : ∀ p ∈ moving, p ∈ moving ++ published := fun _ h => List.mem_append_left _ h

theorem published_follow : ∀ p ∈ published, p ∈ moving ++ published := fun _ h => List.mem_append_right _ h

/-- An evaluation whose results are handed on is one that is not, with at most the ZONE record published after it. -/
theorem evalHandOn_cases (s : State) : s.evalHandOn = s.evalIfDue ∨ s.evalHandOn = s.evalIfDue.handOn := by
  unfold State.evalHandOn State.evalIfDue
  dsimp only
  split
  · exact .inr rfl
  · exact .inl rfl

theorem evalHandOn_changes (s : State) : Changes (moving ++ published) s s.evalHandOn := by
  rcases evalHandOn_cases s with h | h
  · rw [h]
    exact (evalIfDue_moving s).mono moving_follow
  · rw [h]
    exact (evalIfDue_moving s).trans (handOn_published _)

theorem leaveBudget_changes (s : State) (a : Axis) : Changes [.budget] s (s.leaveBudget a) :=
  with_budget _ _

theorem switchToRun_changes (s : State) (a : Axis) : Changes [.budget] s (s.switchToRun a) :=
  with_budget _ _

/-! ### Overrides -/

theorem pushOverride_changes (s : State) (g : Fin 12) (o : Override) :
    Changes [.groups, .events] s (s.pushOverride g o).1 :=
  (mapGroup_changes s g _).trans (raiseIf_changes _ _ _)

theorem pushOwn_changes (s : State) (g : Fin 12) (o : Override) : Changes [.groups, .events] s (s.pushOwn g o) := by
  refine (pushOverride_changes s g o).seq ((raiseIf_changes _ _ _).mono ?_)
  decide

theorem pushAxisOverride_changes (s : State) (a : Axis) (j : Nat) :
    Changes [.groups, .events] s (s.pushAxisOverride a j) := by
  unfold State.pushAxisOverride
  split
  · exact Changes.refl _ _
  · exact pushOwn_changes _ _ _

theorem pushEstopOverride_changes (s : State) : Changes [.groups, .events] s s.pushEstopOverride := by
  unfold State.pushEstopOverride
  split
  · exact Changes.refl _ _
  · exact pushOwn_changes _ _ _

/-! ### Axes and windlass drive -/

theorem setDuty_changes (s : State) (v : Nat) : Changes [.windlass, .bridge] s (s.setDuty v) := by
  unfold State.setDuty
  dsimp only
  split
  · exact with_windlass_bridge _ _ _
  · split
    · exact with_windlass_bridge _ _ _
    · exact (with_windlass _ _).mono (by decide)

theorem outputsOff_changes (s : State) (a : Axis) : Changes [.windlass, .bridge, .valves] s (s.outputsOff a) := by
  cases a
  · exact (setDuty_changes s 0).mono (by decide)
  all_goals
    unfold State.outputsOff axisHyd
    dsimp only
    split
    all_goals
      intro p hp
      cases p <;> first | rfl | exact ⟨rfl, rfl⟩ | exact absurd (by decide) hp

theorem windlassIdle_changes (s : State) (a : Axis) : Changes [.windlass] s (s.windlassIdle a) := by
  unfold State.windlassIdle
  split
  · exact with_windlass _ _
  · exact Changes.refl _ _

theorem windlassFault_changes (s : State) (a : Axis) : Changes [.windlass] s (s.windlassFault a) := by
  unfold State.windlassFault
  split
  · exact with_windlass _ _
  · exact Changes.refl _ _

theorem leavePump_changes (s : State) (a : Axis) : Changes [.pumpList] s (s.leavePump a) := by
  cases a
  · exact Changes.refl _ _
  all_goals exact with_pumpList _ _

/-- An entry into IDLE (R144) touches no other axis. -/
theorem enterIdle_changes (s : State) (a : Axis) (r : LastResult) : Changes (idleParts a) s (s.enterIdle a r) := by
  have h := (((((outputsOff_changes s a).trans (windlassIdle_changes _ a)).trans (leaveBudget_changes _ a)).trans
    (leavePump_changes _ a)).trans (releaseSource_changes _ (axisSource a))).trans
    (mapAxis_changes _ a fun x => x.toIdle r)
  refine h.mono ?_
  simp [idleParts]

/-- An entry into FAULTED (R146) touches no other axis and no group. -/
theorem enterFaulted_changes (s : State) (a : Axis) (c : Cause) :
    Changes [.windlass, .bridge, .valves, .budget, .pumpList, .events, .axis a] s (s.enterFaulted a c) := by
  have h := (((((outputsOff_changes s a).trans (windlassFault_changes _ a)).trans (leaveBudget_changes _ a)).trans
    (leavePump_changes _ a)).trans (mapAxis_changes _ a fun x => x.toFaulted c)).trans
    (raise_changes _ (faultEvent a))
  refine h.mono ?_
  simp

theorem enterIdle_axisParts (s : State) (a : Axis) (r : LastResult) : Changes (axisParts a) s (s.enterIdle a r) :=
  (enterIdle_changes s a r).mono fun _ h => List.mem_append_left _ h

theorem enterFaulted_axisParts (s : State) (a : Axis) (c : Cause) : Changes (axisParts a) s (s.enterFaulted a c) := by
  refine (enterFaulted_changes s a c).mono ?_
  simp [axisParts, idleParts]

theorem setDuty_axisParts (s : State) (v : Nat) : Changes (axisParts .windlass) s (s.setDuty v) :=
  (setDuty_changes s v).mono (by decide)

theorem applyDuty_changes (s : State) (v : Nat) : Changes (axisParts .windlass) s (s.applyDuty v) := by
  unfold State.applyDuty
  dsimp only
  split
  · exact (setDuty_axisParts s v).seq (enterFaulted_axisParts _ _ _)
  · split
    · exact (setDuty_axisParts s v).seq (enterIdle_axisParts _ _ _)
    · exact setDuty_axisParts s v

theorem formDuty_changes (s : State) : Changes (axisParts .windlass) s s.formDuty := by
  have h : Changes (axisParts .windlass) s { s with wl := { s.wl with dutyTarget := s.dutyTargetNow } } :=
    (with_windlass _ _).mono (by decide)
  unfold State.formDuty
  dsimp only
  split
  · split
    · exact h.seq (applyDuty_changes _ _)
    · exact h.seq (applyDuty_changes _ _)
  · exact h

theorem rampNow_changes (s : State) : Changes (axisParts .windlass) s s.rampNow := applyDuty_changes _ _

theorem stopWindlass_changes (s : State) (r : LastResult) : Changes (axisParts .windlass) s (s.stopWindlass r) := by
  unfold State.stopWindlass
  dsimp only
  exact ((mapAxis_changes s .windlass _).mono (by decide)).seq
    (((with_windlass _ _).mono (by decide)).seq (formDuty_changes _))

theorem stopHyd_changes (s : State) (h : Hyd) (r : LastResult) : Changes (axisParts (hydAxis h)) s (s.stopHyd h r) := by
  unfold State.stopHyd
  dsimp only
  have k : Changes (axisParts (hydAxis h)) s ((s.setPump false).mapAxis (hydAxis h) fun x =>
      { x with phase := .stopping, last := r, travel := none, startTime := none, lead := none,
               lag := some (s.axisField (hydAxis h) AxisTable.lag) }) := by
    refine ((setPump_changes s false).trans (mapAxis_changes _ _ _)).mono ?_
    cases h <;> decide
  split
  · exact k.seq (enterIdle_axisParts _ _ _)
  · exact k

theorem enterStopping_changes (s : State) (a : Axis) (r : LastResult) : Changes (axisParts a) s (s.enterStopping a r) := by
  cases a
  · exact stopWindlass_changes s r
  · exact stopHyd_changes s .platform r
  · exact stopHyd_changes s .hatch r

theorem beginRun_changes (s : State) (a : Axis) : Changes (axisParts a) s (s.beginRun a) := by
  have sub : ∀ p ∈ [Part.groups, .events], p ∈ axisParts a := by cases a <;> decide
  have sub' : ∀ p ∈ [Part.budget], p ∈ axisParts a := by cases a <;> decide
  have sub'' : ∀ p ∈ [Part.axis a], p ∈ axisParts a := by cases a <;> decide
  unfold State.beginRun
  dsimp only
  refine Changes.seq ?_ ((pushAxisOverride_changes _ a 1).mono sub)
  refine Changes.seq ?_ ((pushAxisOverride_changes _ a 0).mono sub)
  split
  · exact ((mapAxis_changes s a _).mono sub'').seq ((switchToRun_changes _ a).mono sub')
  · exact (mapAxis_changes s a _).mono sub''

theorem beginHydRun_changes (s : State) (h : Hyd) : Changes (axisParts (hydAxis h)) s (s.beginHydRun h) := by
  have sub : ∀ p ∈ [Part.valves], p ∈ axisParts (hydAxis h) := by cases h <;> decide
  have sub' : ∀ p ∈ [Part.axis (hydAxis h)], p ∈ axisParts (hydAxis h) := by cases h <;> decide
  have val : ∀ (t : State) (m : Motion), Changes [.valves] t { t with out := t.out.setValve m true } := by
    intro t m p hp
    cases m <;> cases p <;> first | rfl | exact ⟨rfl, rfl⟩ | exact absurd (by decide) hp
  unfold State.beginHydRun
  dsimp only
  split
  · exact Changes.refl _ _
  · split
    · exact (((mapAxis_changes s _ _).mono sub').seq ((val _ _).mono sub)).seq ((setPump_changes _ _).mono sub)
    · exact ((mapAxis_changes s _ _).mono sub').seq ((val _ _).mono sub)

theorem runHyd_changes (s : State) (h : Hyd) : Changes (axisParts (hydAxis h)) s (s.runHyd h) := by
  unfold State.runHyd
  dsimp only
  have k := (beginRun_changes s (hydAxis h)).seq (beginHydRun_changes _ h)
  split
  · exact k.seq (enterFaulted_axisParts _ _ _)
  · split
    · exact k
    · split
      · exact k.seq (stopHyd_changes _ _ _)
      · exact k

theorem runWindlass_changes (s : State) : Changes (axisParts .windlass) s s.runWindlass := by
  have k : ∀ t : State, Changes (axisParts .windlass) t
      { t with wl := { t.wl with stall := some (t.axisField .windlass AxisTable.stallTime), ramp := some 10 } } :=
    fun t => (with_windlass _ _).mono (by decide)
  unfold State.runWindlass
  dsimp only
  split
  · exact ((beginRun_changes s .windlass).seq (k _)).seq (stopWindlass_changes _ _)
  · exact ((beginRun_changes s .windlass).seq (k _)).seq (formDuty_changes _)

/-- The try of an axis to run touches no other axis. -/
theorem tryRun_changes (s : State) (a : Axis) : Changes (axisParts a) s (s.tryRun a) := by
  unfold State.tryRun
  dsimp only
  split
  · cases a
    · dsimp only [axisHyd]
      split
      · exact Changes.refl _ _
      · exact runWindlass_changes s
    · dsimp only [axisHyd]
      split
      · exact runHyd_changes s .platform
      · exact Changes.refl _ _
    · dsimp only [axisHyd]
      split
      · exact runHyd_changes s .hatch
      · exact Changes.refl _ _
  · exact Changes.refl _ _

theorem axisParts_moving (a : Axis) : ∀ p ∈ axisParts a, p ∈ moving := by cases a <;> decide

theorem axisParts_follow (a : Axis) : ∀ p ∈ axisParts a, p ∈ moving ++ published := fun p h =>
  moving_follow p (axisParts_moving a p h)

theorem settleRound_changes (s : State) : Changes (moving ++ published) s s.settleRound := by
  unfold State.settleRound
  exact ((((tryRun_changes s .windlass).mono (axisParts_follow _)).seq
    ((tryRun_changes _ .platform).mono (axisParts_follow _))).seq
    ((tryRun_changes _ .hatch).mono (axisParts_follow _))).seq (evalHandOn_changes _)

/-- The consequences of an event among axes, pump and budget touch nothing but `moving`, and what the publication of the
evaluations' results may change. -/
theorem settle_changes (s : State) : Changes (moving ++ published) s s.settle :=
  ((((evalHandOn_changes s).seq (settleRound_changes _)).seq (settleRound_changes _)).seq (settleRound_changes _)).seq
    (settleRound_changes _)

theorem requestPump_changes (s : State) (a : Axis) : Changes [.pumpList] s (s.requestPump a) := by
  unfold State.requestPump
  split
  · exact Changes.refl _ _
  · split
    · exact Changes.refl _ _
    · exact with_pumpList _ _

theorem requestAdmission_changes (s : State) (a : Axis) : Changes (moving ++ published) s (s.requestAdmission a) := by
  unfold State.requestAdmission
  dsimp only
  exact ((with_budget _ _).mono (by decide)).seq (evalHandOn_changes _)

/-- An entry into STARTING (R140), with all it brings at the same event. -/
theorem enterStarting_changes (s : State) (a : Axis) (m : Motion) (t : Option Target) :
    Changes (moving ++ published) s (s.enterStarting a m t) := by
  have sub : ∀ p ∈ [Part.axis a], p ∈ moving ++ published := by cases a <;> decide
  unfold State.enterStarting
  dsimp only
  have k := (((((mapAxis_changes s a fun x =>
    { x with phase := .starting, dir := some m, target := t, admitted := false }).mono sub).seq
    (requestAdmission_changes _ a)).seq ((requestPump_changes _ a).mono (by decide))).seq
    ((mapAxis_changes _ a fun x => { x with window := some (s.axisField a AxisTable.window) }).mono sub)).seq
    ((tryRun_changes _ a).mono (axisParts_follow a))
  split
  · exact k.seq ((enterIdle_axisParts _ _ _).mono (axisParts_follow a))
  · exact k

/-! ### Permits -/

theorem formPermits_changes (s : State) (n : Fin 24 → Bool) : Changes [.permits] s (s.formPermits n) :=
  with_permits _ _

theorem permitStop_changes (s : State) (a : Axis) : Changes (axisParts a) s (s.permitStop a) := by
  unfold State.permitStop
  dsimp only
  split
  · exact Changes.refl _ _
  · split
    · split
      · exact enterIdle_axisParts _ _ _
      · exact Changes.refl _ _
    · split
      · exact enterStopping_changes _ _ _
      · exact Changes.refl _ _
    · exact Changes.refl _ _

/-- A permit evaluation changes the permit unit and the axes it stops. -/
theorem evalPermits_changes (s : State) (n : Fin 24 → Bool) : Changes (.permits :: moving) s (s.evalPermits n) := by
  have sub : ∀ a, ∀ p ∈ axisParts a, p ∈ Part.permits :: moving := fun a p h =>
    List.mem_cons_of_mem _ (axisParts_moving a p h)
  unfold State.evalPermits
  dsimp only
  split
  · exact ((((formPermits_changes s n).mono (by decide)).seq ((permitStop_changes _ .windlass).mono (sub _))).seq
      ((permitStop_changes _ .platform).mono (sub _))).seq ((permitStop_changes _ .hatch).mono (sub _))
  · exact Changes.refl _ _

/-- An input change that reaches the permit unit and another reader changes what either may. -/
theorem withPermits_changes (s : State) (n : Fin 24 → Bool) (act : State → State) (l : List Part)
    (h : ∀ t, Changes l t (act t)) : Changes (.choice :: .permits :: moving ++ l) s (s.withPermits n act) := by
  have sub : ∀ p ∈ Part.permits :: moving, p ∈ Part.choice :: .permits :: moving ++ l := fun p q =>
    List.mem_append_left l (List.mem_cons_of_mem _ q)
  have sub' : ∀ p ∈ l, p ∈ Part.choice :: .permits :: moving ++ l := fun p q => List.mem_append_right _ q
  have c : Changes (.choice :: .permits :: moving ++ l) s { s with choice := s.choice + 1 } :=
    (with_choice _ _).mono fun p h => List.mem_append_left l (by revert p; decide)
  unfold State.withPermits
  dsimp only
  split
  · split
    · exact (c.seq ((evalPermits_changes _ n).mono sub)).seq ((h _).mono sub')
    · exact (c.seq ((h _).mono sub')).seq ((evalPermits_changes _ n).mono sub)
  · exact (h s).mono sub'

end Sys2Proof.Machine
end

