-- ==== Sys2Proof/Laws/Settle.lean ====
section
/-! SUPPORT. What the consequences of an event are: the settled states in which there are none, and what settling keeps of an
axis that is not STARTING. -/

namespace Sys2Proof.Machine

/-! ### Evaluations -/

/-- The requests are those of the groups, and no evaluation is owed. -/
def State.Evaluated (s : State) : Prop :=
  s.budget.evalDue = false ∧ ∀ c : Fin 24, s.requests[c] = s.channelRequest c

theorem channelRequest_congr {s t : State} (ha : t.store.active = s.store.active) (hg : t.groups = s.groups)
    (c : Fin 24) : t.channelRequest c = s.channelRequest c := by
  simp [State.channelRequest, State.channelOn, State.channelField, State.field_congr ha, hg]

theorem refreshRequests_of_same {s : State} (h : ∀ c : Fin 24, s.requests[c] = s.channelRequest c) :
    s.refreshRequests = s := by
  unfold State.refreshRequests
  dsimp only
  rw [if_pos]
  ext i hi
  rw [Vector.getElem_ofFn]
  exact (h ⟨i, hi⟩).symm

/-- Where nothing has changed there is nothing to evaluate. -/
theorem State.Evaluated.evalIfDue {s : State} (h : s.Evaluated) : s.evalIfDue = s := by
  unfold State.evalIfDue
  rw [refreshRequests_of_same h.2]
  simp [h.1]

theorem refreshRequests_requests (s : State) (c : Fin 24) : s.refreshRequests.requests[c] = s.channelRequest c := by
  unfold State.refreshRequests
  dsimp only
  split
  · next h =>
    have e : s.requests[c] = (Vector.ofFn fun c => s.channelRequest c)[c] := by rw [h]
    rw [e]
    simp
  · simp

theorem evaluate_evalDue (s : State) : s.evaluate.budget.evalDue = false := rfl

/-- After an evaluation, or where none was called for, none is owed. -/
theorem evalIfDue_evaluated (s : State) : s.evalIfDue.Evaluated := by
  have hc := evalIfDue_changes s
  have ha : Part.active ∉ evaluated ++ s.budget.waiters.map .axis := by
    simp [evaluated]
  have hg : Part.groups ∉ evaluated ++ s.budget.waiters.map .axis := by
    simp [evaluated]
  refine ⟨?_, fun c => ?_⟩
  · unfold State.evalIfDue
    dsimp only
    split
    · rfl
    · next h => simpa using h
  · rw [channelRequest_congr (hc .active ha) (hc .groups hg), ← refreshRequests_requests]
    have h1 : s.evalIfDue.requests = s.refreshRequests.requests := by
      unfold State.evalIfDue
      dsimp only
      split
      · refine evaluate_changes s.refreshRequests .requests ?_
        simp
      · rfl
    rw [h1]

theorem State.Evaluated.evalHandOn {s : State} (h : s.Evaluated) : s.evalHandOn = s := by
  unfold State.evalHandOn
  rw [refreshRequests_of_same h.2]
  simp [h.1]

/-- Handing on the results leaves none owed. -/
theorem State.Evaluated.handOn {s : State} (h : s.Evaluated) : s.handOn.Evaluated := by
  have k := handOn_published s
  have b : s.handOn.budget = s.budget := k .budget (by decide)
  have q : s.handOn.requests = s.requests := k .requests (by decide)
  refine ⟨by rw [b]; exact h.1, fun c => ?_⟩
  rw [channelRequest_congr (k .active (by decide)) (k .groups (by decide)), ← h.2 c]
  exact congrArg (fun v : Vector Nat 24 => v[c]) q

theorem evalHandOn_evaluated (s : State) : s.evalHandOn.Evaluated := by
  rcases evalHandOn_cases s with h | h <;> rw [h]
  · exact evalIfDue_evaluated s
  · exact (evalIfDue_evaluated s).handOn

theorem evalHandOn_idem (s : State) : s.evalHandOn.evalHandOn = s.evalHandOn := (evalHandOn_evaluated s).evalHandOn

/-! ### Settling -/

theorem tryRun_of_not_starting {s : State} {a : Axis} (h : (s.axis a).phase ≠ .starting) : s.tryRun a = s := by
  simp [State.tryRun, h]

theorem settleRound_of_noneStarting {s : State} (h : s.noneStarting) : s.settleRound = s.evalHandOn := by
  simp [State.settleRound, tryRun_of_not_starting (h _)]

/-- An evaluation changes nothing of an axis but the admitted mark. -/
theorem admit_axis (s : State) (a b : Axis) : ∃ m, (s.grantAdmission b).axis a = { s.axis a with admitted := m } := by
  unfold State.grantAdmission
  by_cases h : a = b
  · subst h
    exact ⟨true, State.axis_mapAxis_same _ _ _⟩
  · exact ⟨(s.axis a).admitted, State.axis_mapAxis_other _ _ h⟩

theorem testWaiters_axis (n : Nat) (l : List Axis) (s : State) (a : Axis) :
    ∃ m, (s.testWaiters n l).axis a = { s.axis a with admitted := m } := by
  induction l generalizing s with
  | nil => exact ⟨(s.axis a).admitted, rfl⟩
  | cons b l ih =>
    unfold State.testWaiters
    dsimp only
    split
    · obtain ⟨m, hm⟩ := ih (s.grantAdmission b)
      obtain ⟨k, hk⟩ := admit_axis s a b
      exact ⟨m, by rw [hm, hk]⟩
    · exact ih s

theorem refreshRequests_axis (s : State) (a : Axis) : s.refreshRequests.axis a = s.axis a :=
  refreshRequests_changes s (.axis a) (by simp)

theorem takeSource_axis (s : State) (a : Axis) : s.takeSource.axis a = s.axis a :=
  takeSource_changes s (.axis a) (by simp)

theorem evaluate_axis (s : State) (a : Axis) : ∃ m, s.evaluate.axis a = { s.axis a with admitted := m } := by
  obtain ⟨m, hm⟩ := testWaiters_axis (floorDraw s.takeSource.chans) s.takeSource.budget.waiters s.takeSource a
  refine ⟨m, ?_⟩
  rw [takeSource_axis] at hm
  rw [← hm]
  exact takeVerdict_changes _ _ (.axis a) (by simp)

theorem evalIfDue_axis (s : State) (a : Axis) : ∃ m, s.evalIfDue.axis a = { s.axis a with admitted := m } := by
  unfold State.evalIfDue
  dsimp only
  split
  · obtain ⟨m, hm⟩ := evaluate_axis s.refreshRequests a
    exact ⟨m, by rw [hm, refreshRequests_axis]⟩
  · exact ⟨(s.axis a).admitted, by rw [refreshRequests_axis]⟩

theorem evalHandOn_axis (s : State) (a : Axis) : ∃ m, s.evalHandOn.axis a = { s.axis a with admitted := m } := by
  obtain ⟨m, hm⟩ := evalIfDue_axis s a
  refine ⟨m, ?_⟩
  rcases evalHandOn_cases s with h | h <;> rw [h]
  · exact hm
  · have k : s.evalIfDue.handOn.axis a = s.evalIfDue.axis a := handOn_published _ (.axis a) (by cases a <;> decide)
    rw [k, hm]

theorem evalHandOn_noneStarting {s : State} (h : s.noneStarting) : s.evalHandOn.noneStarting := by
  intro a
  obtain ⟨m, hm⟩ := evalHandOn_axis s a
  rw [hm]
  exact h a

/-- Where no axis is STARTING, settling is one evaluation. -/
theorem settle_of_noneStarting {s : State} (h : s.noneStarting) : s.settle = s.evalHandOn := by
  have h' := evalHandOn_noneStarting h
  simp only [State.settle]
  rw [settleRound_of_noneStarting h', evalHandOn_idem, settleRound_of_noneStarting h', evalHandOn_idem,
    settleRound_of_noneStarting h', evalHandOn_idem, settleRound_of_noneStarting h', evalHandOn_idem]

theorem axis_mem_axisParts {a b : Axis} (h : b ≠ a) : Part.axis b ∉ axisParts a := by
  cases a <;> cases b <;> first | exact absurd rfl h | decide

theorem tryRun_axis_other {s : State} {a b : Axis} (h : b ≠ a) : (s.tryRun a).axis b = s.axis b :=
  tryRun_changes s a (.axis b) (axis_mem_axisParts h)

theorem tryRun_axis {s : State} {b : Axis} (h : (s.axis b).phase ≠ .starting) (a : Axis) :
    (s.tryRun a).axis b = s.axis b := by
  by_cases e : b = a
  · subst e
    rw [tryRun_of_not_starting h]
  · exact tryRun_axis_other e

theorem settleRound_axis {s : State} {a : Axis} (h : (s.axis a).phase ≠ .starting) :
    ∃ m, s.settleRound.axis a = { s.axis a with admitted := m } := by
  have h1 := tryRun_axis h .windlass
  have h2 : ((s.tryRun .windlass).tryRun .platform).axis a = s.axis a := by
    rw [tryRun_axis (by rw [h1]; exact h), h1]
  have h3 : (((s.tryRun .windlass).tryRun .platform).tryRun .hatch).axis a = s.axis a := by
    rw [tryRun_axis (by rw [h2]; exact h), h2]
  obtain ⟨m, hm⟩ := evalHandOn_axis (((s.tryRun .windlass).tryRun .platform).tryRun .hatch) a
  exact ⟨m, by rw [State.settleRound, hm, h3]⟩

/-- Settling changes nothing of an axis that is not STARTING but its admitted mark. -/
theorem settle_axis {s : State} {a : Axis} (h : (s.axis a).phase ≠ .starting) :
    ∃ m, s.settle.axis a = { s.axis a with admitted := m } := by
  obtain ⟨m0, e0⟩ := evalHandOn_axis s a
  obtain ⟨m1, e1⟩ := settleRound_axis (s := s.evalHandOn) (a := a) (by rw [e0]; exact h)
  obtain ⟨m2, e2⟩ := settleRound_axis (s := s.evalHandOn.settleRound) (a := a) (by rw [e1, e0]; exact h)
  obtain ⟨m3, e3⟩ := settleRound_axis (s := s.evalHandOn.settleRound.settleRound) (a := a) (by rw [e2, e1, e0]; exact h)
  obtain ⟨m4, e4⟩ := settleRound_axis (s := s.evalHandOn.settleRound.settleRound.settleRound) (a := a)
    (by rw [e3, e2, e1, e0]; exact h)
  exact ⟨m4, by rw [State.settle, e4, e3, e2, e1, e0]⟩

/-- A calm state has nothing to settle. -/
theorem State.Calm.evaluated {s : State} (h : s.Calm) : s.Evaluated := ⟨h.noEval, h.requests⟩

theorem State.Calm.settle {s : State} (h : s.Calm) : s.settle = s := by
  rw [settle_of_noneStarting h.noneStarting, h.evaluated.evalHandOn]

/-! ### A pending commit -/

/-- Without a pending commit none is applied. -/
theorem commitIfReady_of_none {s : State} (h : s.store.commitPending = false) : s.commitIfReady = s := by
  simp [State.commitIfReady, h]

/-- Equal parts of the table store make an equal store. -/
theorem Changes.store {l : List Part} {s t : State} (h : Changes l s t) (ha : Part.active ∉ l) (hs : Part.shadow ∉ l)
    (hi : Part.image ∉ l) (hc : Part.commit ∉ l) : t.store = s.store := by
  have a : t.store.active = s.store.active := h .active ha
  have b : t.store.shadow = s.store.shadow := h .shadow hs
  have c : t.store.image = s.store.image ∧ t.store.marker = s.store.marker := h .image hi
  have d : t.store.commitPending = s.store.commitPending := h .commit hc
  obtain ⟨c1, c2⟩ := c
  generalize t.store = x at *
  generalize s.store = y at *
  cases x
  cases y
  simp_all

theorem settle_store (s : State) : s.settle.store = s.store :=
  (settle_changes s).store (by decide) (by decide) (by decide) (by decide)

/-- Without a pending commit what follows an event is settling and publication. -/
theorem finish_of_noCommit {s : State} (h : s.store.commitPending = false) : s.finish = s.settle.publish := by
  rw [State.finish, commitIfReady_of_none]
  rw [settle_store]
  exact h

end Sys2Proof.Machine
end

