-- ==== Sys2Proof/Laws/Axis.lean ====
section
/-! SUPPORT. What the life-cycle entries of the axes leave in the axis itself, its outputs, its reservation and the pump
list. The frames of the same operations are in Laws/Changes. -/

namespace Sys2Proof.Machine

theorem axisHyd_hydAxis (h : Hyd) : axisHyd (hydAxis h) = some h := by cases h <;> rfl

/-- The output stage is as it was where none of its parts changed. -/
theorem Changes.out {l : List Part} {s t : State} (h : Changes l s t) (hp : Part.pwm ∉ l) (hb : Part.buffers ∉ l)
    (hv : Part.valves ∉ l) (hr : Part.bridge ∉ l) : t.out = s.out := by
  have e : ∀ x y : Outputs, x.pwm = y.pwm → x.buffers = y.buffers → x.valves = y.valves → x.bridge = y.bridge → x = y := by
    rintro ⟨⟩ ⟨⟩ h1 h2 h3 h4
    simp only [Outputs.pwm, Outputs.valves, Prod.mk.injEq] at h1 h2 h3 h4
    obtain ⟨rfl, rfl, rfl, rfl⟩ := h1
    obtain ⟨rfl, rfl, rfl, rfl, rfl⟩ := h3
    subst h2 h4
    rfl
  exact e _ _ (h .pwm hp) (h .buffers hb) (h .valves hv) (h .bridge hr)

theorem leavePump_pumpList (t : State) (h : Hyd) : (t.leavePump (hydAxis h)).axes.pumpList = t.axes.pumpList.erase h := by
  cases h <;> rfl

/-! ### The applied duty -/

theorem setDuty_duty (s : State) (v : Nat) : (s.setDuty v).wl.duty = v := by
  unfold State.setDuty
  dsimp only
  split
  · rfl
  · split <;> rfl

/-- A duty of 0 turns the bridge off, where it drove (R171). -/
theorem setDuty_zero_bridge (s : State) :
    (s.setDuty 0).out.bridge.dir = if s.wl.duty = 0 then s.out.bridge.dir else none := by
  unfold State.setDuty
  by_cases h : s.wl.duty = 0
  · simp [h]
  · simp [h, Nat.pos_of_ne_zero h]

/-- The bridge of a duty that rises from 0 takes the windlass's direction (R170, R171). -/
theorem setDuty_rise_bridge {s : State} {v : Nat} (h : s.wl.duty = 0) (hv : 0 < v) :
    (s.setDuty v).out.bridge.dir = (s.axis .windlass).dir := by
  unfold State.setDuty
  simp [h, hv, State.bridgeCycleStart, State.axis, PerAxis.get]

/-- A duty that neither rises from 0 nor falls to it changes nothing else. -/
theorem setDuty_keep {s : State} {v : Nat} (h : s.wl.duty ≠ 0 ∧ v ≠ 0 ∨ s.wl.duty = 0 ∧ v = 0) :
    s.setDuty v = { s with wl := { s.wl with duty := v } } := by
  unfold State.setDuty
  rcases h with ⟨h, k⟩ | ⟨h, rfl⟩
  · simp [h, k]
  · simp [h]

/-! ### Entries into IDLE -/

/-- The axis's own record after its entry into IDLE (R144). -/
@[simp] theorem enterIdle_axis (s : State) (a : Axis) (r : LastResult) : (s.enterIdle a r).axis a = (s.axis a).toIdle r := by
  have h := ((((outputsOff_changes s a).trans (windlassIdle_changes _ a)).trans (leaveBudget_changes _ a)).trans
    (leavePump_changes _ a)).trans (releaseSource_changes _ (axisSource a))
  unfold State.enterIdle
  dsimp only
  rw [State.axis_mapAxis_same, h.axis (a := a) (by simp)]

/-- Another axis is left. -/
theorem enterIdle_axis_other (s : State) {a b : Axis} (r : LastResult) (h : b ≠ a) :
    (s.enterIdle a r).axis b = s.axis b :=
  (enterIdle_changes s a r).axis (by cases a <;> simp [idleParts, h])

/-- The reservation and the place among the waiters are gone (R120, R121). -/
theorem enterIdle_budget (s : State) (a : Axis) (r : LastResult) :
    (s.enterIdle a r).budget.res = s.budget.res.set a .none ∧
      (s.enterIdle a r).budget.waiters = s.budget.waiters.erase a := by
  have h := (outputsOff_changes s a).trans (windlassIdle_changes _ a)
  have hb : ((s.outputsOff a).windlassIdle a).budget = s.budget := h .budget (by simp)
  have hp : ∀ t : State, (t.leavePump a).budget = t.budget := fun t => leavePump_changes t a .budget (by simp)
  unfold State.enterIdle
  dsimp only
  constructor
  · show ((((s.outputsOff a).windlassIdle a).leaveBudget a).leavePump a).budget.res = _
    rw [hp]
    show (((s.outputsOff a).windlassIdle a).budget.res.set a .none) = _
    rw [hb]
  · show ((((s.outputsOff a).windlassIdle a).leaveBudget a).leavePump a).budget.waiters = _
    rw [hp]
    show (((s.outputsOff a).windlassIdle a).budget.waiters.erase a) = _
    rw [hb]

/-- A hydraulic axis leaves the pump list (R151). -/
theorem enterIdle_pumpList (s : State) (h : Hyd) (r : LastResult) :
    (s.enterIdle (hydAxis h) r).axes.pumpList = s.axes.pumpList.erase h := by
  have e := ((outputsOff_changes s (hydAxis h)).trans (windlassIdle_changes _ (hydAxis h))).trans
    (leaveBudget_changes _ (hydAxis h)) .pumpList (by simp)
  unfold State.enterIdle
  dsimp only
  rw [((releaseSource_changes _ _).trans (mapAxis_changes _ _ _)) .pumpList (by simp), leavePump_pumpList]
  exact congrArg (List.erase · h) e

/-- The windlass is off, with no mode, no target and no timer but the reversal pause (R156, R160). -/
theorem enterIdle_windlass (s : State) (r : LastResult) :
    (s.enterIdle .windlass r).wl =
      { (s.setDuty 0).wl.stopTimers with mode := .none, payTarget := 0, dutyTarget := 0 } := rfl

theorem enterIdle_windlass_out (s : State) (r : LastResult) : (s.enterIdle .windlass r).out = (s.setDuty 0).out := by
  unfold State.enterIdle
  dsimp only
  rw [((((windlassIdle_changes _ _).trans (leaveBudget_changes _ _)).trans (leavePump_changes _ _)).trans
    ((releaseSource_changes _ _).trans (mapAxis_changes _ _ _))).out (by simp) (by simp) (by simp) (by simp)]
  rfl

/-- The valves of a hydraulic axis close, and its pump stops where it held it (R144). -/
theorem outputsOff_out (s : State) (h : Hyd) :
    (s.outputsOff (hydAxis h)).out =
      { s.out.closeValves h with pump := if s.holdsPump h then false else s.out.pump } := by
  by_cases hp : s.holdsPump h = true
  · rw [if_pos hp]
    unfold State.outputsOff
    rw [axisHyd_hydAxis]
    dsimp only
    rw [if_pos hp]
    rfl
  · rw [if_neg hp]
    unfold State.outputsOff
    rw [axisHyd_hydAxis]
    dsimp only
    rw [if_neg hp]
    cases h <;> rfl

theorem enterIdle_out (s : State) (h : Hyd) (r : LastResult) :
    (s.enterIdle (hydAxis h) r).out =
      { s.out.closeValves h with pump := if s.holdsPump h then false else s.out.pump } := by
  rw [← outputsOff_out]
  unfold State.enterIdle
  dsimp only
  rw [((((windlassIdle_changes _ _).trans (leaveBudget_changes _ _)).trans (leavePump_changes _ _)).trans
    ((releaseSource_changes _ _).trans (mapAxis_changes _ _ _))).out (by simp) (by simp) (by simp) (by simp)]

/-! ### Entries into FAULTED -/

/-- The axis's own record after its entry into FAULTED (R146). -/
@[simp] theorem enterFaulted_axis (s : State) (a : Axis) (c : Cause) :
    (s.enterFaulted a c).axis a = (s.axis a).toFaulted c := by
  have h := (((outputsOff_changes s a).trans (windlassFault_changes _ a)).trans (leaveBudget_changes _ a)).trans
    (leavePump_changes _ a)
  unfold State.enterFaulted
  dsimp only
  rw [State.raise_axis, State.axis_mapAxis_same, h.axis (a := a) (by simp)]

theorem enterFaulted_axis_other (s : State) {a b : Axis} (c : Cause) (h : b ≠ a) :
    (s.enterFaulted a c).axis b = s.axis b :=
  (enterFaulted_changes s a c).axis (by simp [h])

theorem enterFaulted_budget (s : State) (a : Axis) (c : Cause) :
    (s.enterFaulted a c).budget.res = s.budget.res.set a .none ∧
      (s.enterFaulted a c).budget.waiters = s.budget.waiters.erase a := by
  have h := (outputsOff_changes s a).trans (windlassFault_changes _ a)
  have hb : ((s.outputsOff a).windlassFault a).budget = s.budget := h .budget (by simp)
  have hp : ∀ t : State, (t.leavePump a).budget = t.budget := fun t => leavePump_changes t a .budget (by simp)
  unfold State.enterFaulted
  dsimp only
  constructor
  · show ((((s.outputsOff a).windlassFault a).leaveBudget a).leavePump a).budget.res = _
    rw [hp]
    show (((s.outputsOff a).windlassFault a).budget.res.set a .none) = _
    rw [hb]
  · show ((((s.outputsOff a).windlassFault a).leaveBudget a).leavePump a).budget.waiters = _
    rw [hp]
    show (((s.outputsOff a).windlassFault a).budget.waiters.erase a) = _
    rw [hb]

theorem enterFaulted_pumpList (s : State) (h : Hyd) (c : Cause) :
    (s.enterFaulted (hydAxis h) c).axes.pumpList = s.axes.pumpList.erase h := by
  have e := ((outputsOff_changes s (hydAxis h)).trans (windlassFault_changes _ (hydAxis h))).trans
    (leaveBudget_changes _ (hydAxis h)) .pumpList (by simp)
  unfold State.enterFaulted
  dsimp only
  rw [((mapAxis_changes _ _ _).trans (raise_changes _ _)) .pumpList (by simp), leavePump_pumpList]
  exact congrArg (List.erase · h) e

theorem enterFaulted_windlass (s : State) (c : Cause) :
    (s.enterFaulted .windlass c).wl = { (s.setDuty 0).wl.stopTimers with dutyTarget := 0 } := rfl

theorem enterFaulted_windlass_out (s : State) (c : Cause) :
    (s.enterFaulted .windlass c).out = (s.setDuty 0).out := by
  unfold State.enterFaulted
  dsimp only
  rw [((((windlassFault_changes _ _).trans (leaveBudget_changes _ _)).trans (leavePump_changes _ _)).trans
    ((mapAxis_changes _ _ _).trans (raise_changes _ _))).out (by simp) (by simp) (by simp) (by simp)]
  rfl

theorem enterFaulted_out (s : State) (h : Hyd) (c : Cause) :
    (s.enterFaulted (hydAxis h) c).out =
      { s.out.closeValves h with pump := if s.holdsPump h then false else s.out.pump } := by
  rw [← outputsOff_out]
  unfold State.enterFaulted
  dsimp only
  rw [((((windlassFault_changes _ _).trans (leaveBudget_changes _ _)).trans (leavePump_changes _ _)).trans
    ((mapAxis_changes _ _ _).trans (raise_changes _ _))).out (by simp) (by simp) (by simp) (by simp)]

/-! ### Event flags -/

/-- A raised flag stands. -/
@[simp] theorem raised_raise (s : State) (e : Event) : (s.raise e).raised e = true := by
  have h : ∀ e : Event, e.mask.getLsb e.number = true := by intro e; cases e <;> decide
  have k := h e
  simp only [State.raised, BitVec.getLsb_eq_getElem, Fin.getElem_fin] at k ⊢
  simp [State.raise, k]

/-- A raise lets no flag fall (R69). -/
theorem raised_mono {s : State} {e : Event} (f : Event) (h : s.raised e = true) : (s.raise f).raised e = true := by
  simp only [State.raised, BitVec.getLsb_eq_getElem, Fin.getElem_fin] at h ⊢
  simp [State.raise, h]

theorem raised_raiseIf {s : State} {e : Event} (c : Bool) (f : Event) (h : s.raised e = true) :
    (s.raiseIf c f).raised e = true := by
  cases c
  · exact h
  · exact raised_mono f h

/-! ### STOPPING and RUNNING -/

/-- A hydraulic axis that enters STOPPING with a valve lag: its pump is off and the lag runs (R143, R150). -/
theorem stopHyd_of_lag {s : State} {h : Hyd} (r : LastResult) (hl : s.axisField (hydAxis h) AxisTable.lag ≠ 0) :
    s.stopHyd h r = (s.setPump false).mapAxis (hydAxis h) fun x =>
      { x with phase := .stopping, last := r, travel := none, startTime := none, lead := none,
               lag := some (s.axisField (hydAxis h) AxisTable.lag) } := by
  unfold State.stopHyd
  dsimp only
  rw [if_neg hl]

/-- The ramping test reads the windlass's state alone. -/
theorem ramping_iff (s : State) :
    s.ramping = true ↔ (s.axis .windlass).phase = .running ∨ (s.axis .windlass).phase = .stopping := by
  show (match (s.axis .windlass).phase with
    | .running => true
    | .stopping => true
    | _ => false) = true ↔ _
  cases (s.axis .windlass).phase <;> simp

/-- A duty applied again changes nothing while the bridge drives. -/
theorem applyDuty_same {s : State} (h : s.wl.duty ≠ 0) : s.applyDuty s.wl.duty = s := by
  unfold State.applyDuty
  dsimp only
  rw [setDuty_keep (Or.inl ⟨h, h⟩), if_neg (by simp [h]), if_neg (by simp [h])]

/-- Where a ramp runs, the duty target alone is formed afresh (R160). -/
theorem formDuty_of_ramp {s : State} (hr : s.axisField .windlass AxisTable.rampTime ≠ 0) (hd : s.wl.duty ≠ 0) :
    s.formDuty = { s with wl := { s.wl with dutyTarget := s.dutyTargetNow } } := by
  unfold State.formDuty
  dsimp only
  split
  · refine (if_neg ?_).trans ?_
    · exact hr
    exact applyDuty_same (s := { s with wl := { s.wl with dutyTarget := s.dutyTargetNow } }) hd
  · rfl

/-- A windlass that enters STOPPING with a ramp and a duty keeps the duty and takes the duty target 0 (R160, R161). -/
theorem stopWindlass_of_ramp {s : State} (r : LastResult) (hr : s.axisField .windlass AxisTable.rampTime ≠ 0)
    (hd : s.wl.duty ≠ 0) :
    s.stopWindlass r =
      { s.mapAxis .windlass fun x => { x with phase := .stopping, last := r, startTime := none } with
        wl := { s.wl with stall := none, dutyTarget := 0 } } := by
  unfold State.stopWindlass
  dsimp only
  rw [formDuty_of_ramp (by exact hr) (by exact hd)]
  rfl

end Sys2Proof.Machine
end

