-- ==== Sys2Proof/Laws/Bits.lean ====
section
/-! SUPPORT. The bits of a frame: what a field written by `bitsOf` reads back as, and where the fields of a reading lie. -/

namespace Sys2Proof.Machine

@[simp] theorem bitsOf_length (n v : Nat) : (bitsOf n v).length = n := by
  induction n generalizing v with
  | zero => rfl
  | succ n ih => simp [bitsOf, ih]

theorem natOf_append_bit (l : List Bool) (b : Bool) : natOf (l ++ [b]) = 2 * natOf l + b.toNat := by
  simp [natOf, List.foldl_append]

/-- A number written in `n` bits reads back as that number, modulo 2 to the n. -/
theorem natOf_bitsOf (n v : Nat) : natOf (bitsOf n v) = v % 2 ^ n := by
  induction n generalizing v with
  | zero => simp [bitsOf, natOf, Nat.mod_one]
  | succ n ih =>
    rw [bitsOf, natOf_append_bit, ih, Nat.pow_succ', Nat.mod_mul]
    have : (v % 2 == 1).toNat = v % 2 := by rcases Nat.mod_two_eq_zero_or_one v with h | h <;> simp [h]
    omega

theorem natOf_bitsOf_lt {n v : Nat} (h : v < 2 ^ n) : natOf (bitsOf n v) = v := by
  rw [natOf_bitsOf, Nat.mod_eq_of_lt h]

/-! ### Readings -/

/-- A reading no longer than what was sent is its first bits. -/
theorem readPad_of_le (n : Nat) (l : List Bool) (h : n ≤ l.length) : readPad n l = l.take n := by
  induction n generalizing l with
  | zero => simp [readPad]
  | succ n ih =>
    cases l with
    | nil => simp at h
    | cons b bs => simp [readPad, ih bs (by simpa using h)]

/-- The field that stands behind `pre` in what was sent. -/
theorem fieldAt_append (pre field post : List Bool) :
    fieldAt (pre ++ field ++ post) pre.length field.length = natOf field := by
  unfold fieldAt
  rw [List.append_assoc, List.drop_left, readPad_of_le _ _ (by simp), List.take_left]

/-- The number written in `n` bits at bit `at_`. -/
theorem fieldAt_bitsOf {pre post : List Bool} {n at_ v : Nat} (ha : pre.length = at_) (hv : v < 2 ^ n) :
    fieldAt (pre ++ bitsOf n v ++ post) at_ n = v := by
  have := fieldAt_append pre (bitsOf n v) post
  rw [bitsOf_length, ha] at this
  rw [this, natOf_bitsOf_lt hv]

/-- The bytes that stand behind `pre` in what was sent. -/
theorem bytesAt_append (pre : List Bool) (l : List Byte) (post : List Bool) :
    bytesAt (pre ++ (l.flatMap fun b => bitsOf 8 b.toNat) ++ post) pre.length l.length = l := by
  induction l generalizing pre with
  | nil => rfl
  | cons b bs ih =>
    have h1 := fieldAt_bitsOf (pre := pre) (post := (bs.flatMap fun b => bitsOf 8 b.toNat) ++ post) (n := 8)
      (at_ := pre.length) (v := b.toNat) rfl b.isLt
    have h2 := ih (pre ++ bitsOf 8 b.toNat)
    simp only [List.flatMap_cons, List.append_assoc, List.length_append, bitsOf_length, List.length_cons, bytesAt] at h1 h2 ⊢
    rw [h1, h2]
    simp

@[simp] theorem Kind.ofCode_code (k : Kind) : Kind.ofCode k.code = k := by cases k <;> rfl

theorem Kind.code_lt (k : Kind) : k.code < 4 := by cases k <;> decide

end Sys2Proof.Machine
end

