-- ==== Sys2Proof/Laws/Budget.lean ====
section
/-! SUPPORT. The budget unit's arithmetic: draws, the largest scale, and what a test of the waiters may let in. -/

namespace Sys2Proof.Machine

/-- The scale found satisfies the test, unless none does. -/
theorem largestUpTo_spec (p : Nat → Bool) (n : Nat) : p (largestUpTo p n) = true ∨ largestUpTo p n = 0 := by
  induction n with
  | zero => exact .inr rfl
  | succ n ih =>
    unfold largestUpTo
    split
    · next h => exact .inl h
    · exact ih

theorem largestUpTo_le (p : Nat → Bool) (n : Nat) : largestUpTo p n ≤ n := by
  induction n with
  | zero => exact Nat.le_refl _
  | succ n ih =>
    unfold largestUpTo
    split
    · exact Nat.le_refl _
    · exact Nat.le_succ_of_le ih

/-- No larger scale within the bound satisfies the test. -/
theorem largestUpTo_max (p : Nat → Bool) (n : Nat) {k : Nat} (h : largestUpTo p n < k) (hk : k ≤ n) : p k = false := by
  induction n with
  | zero => simp [largestUpTo] at h; omega
  | succ n ih =>
    unfold largestUpTo at h
    split at h
    · omega
    · next hp =>
      rcases Nat.lt_or_eq_of_le hk with h' | rfl
      · exact ih h (Nat.le_of_lt_succ h')
      · simpa using hp

/-- A draw rises with the level. -/
theorem draw_mono {r v w : Nat} (h : v ≤ w) : draw r v ≤ draw r w := by
  unfold draw
  exact Nat.div_le_div_right (Nat.add_le_add_right (Nat.mul_le_mul_left r h) 999)

/-- A grant stands between the effective floor and the request (R118). -/
theorem Chan.grant_bounds (c : Chan) (d k : Nat) (hon : c.on = true) (hk : k ≤ 256) :
    c.low ≤ c.grant d k ∧ c.grant d k ≤ c.request := by
  have hl : c.low ≤ c.request := Nat.min_le_right _ _
  unfold Chan.grant
  rw [if_neg (by simp [hon])]
  split
  · exact ⟨hl, Nat.le_refl _⟩
  · split
    · refine ⟨Nat.le_add_right _ _, ?_⟩
      have : (c.request - c.low) * k / 256 ≤ c.request - c.low :=
        Nat.div_le_of_le_mul (by rw [Nat.mul_comm]; exact Nat.mul_le_mul_right _ hk)
      omega
    · exact ⟨Nat.le_refl _, hl⟩

/-- The motion reservation sum with one axis's record replaced. -/
theorem amounts_set (r : PerAxis Reservation) (a : Axis) (x : Reservation) :
    (r.set a x).windlass.amount + (r.set a x).platform.amount + (r.set a x).hatch.amount + (r.get a).amount =
      r.windlass.amount + r.platform.amount + r.hatch.amount + x.amount := by
  cases a <;> simp [PerAxis.set, PerAxis.get] <;> omega

/-- What an admission leaves (R122). -/
theorem admit_spec (s : State) (a : Axis) :
    (s.grantAdmission a).budget.res = s.budget.res.set a (.start (s.axisField a AxisTable.startRes)) ∧
      (s.grantAdmission a).budget.waiters = s.budget.waiters.erase a ∧ (s.grantAdmission a).budget.limit = s.budget.limit ∧
      ((s.grantAdmission a).axis a).admitted = true := by
  refine ⟨rfl, rfl, rfl, ?_⟩
  unfold State.grantAdmission
  rw [State.axis_mapAxis_same]

end Sys2Proof.Machine
end

