-- ==== Sys2Proof/Laws/Publish.lean ====
section
/-! SUPPORT. What publication and replies may change, and that an addressed request is answered where there is room. -/

namespace Sys2Proof.Machine

/-! ### What is touched -/

/-- A fold of steps that each change a list of parts changes no other part. -/
theorem foldl_changes {α : Type} {l : List Part} (f : State → α → State) (h : ∀ s x, Changes l s (f s x)) (xs : List α)
    (s : State) : Changes l s (xs.foldl f s) := by
  induction xs generalizing s with
  | nil => exact Changes.refl _ _
  | cons x xs ih => exact (h s x).seq (ih _)

theorem publishAll_published (s : State) : Changes published s s.publishAll :=
  foldl_changes _ publishOne_published _ s

/-- Publication touches nothing but the own queues, the flags and the records' timers. -/
theorem publish_changes (s : State) : Changes published s s.publish := by
  unfold State.publish
  split
  · exact (publishAll_published s).seq (publishAll_published _)
  · exact Changes.refl _ _

theorem queueAllOn_published (s : State) (p : Port) : Changes published s (s.queueAllOn p) := by
  unfold State.queueAllOn
  split
  · exact foldl_changes _ (fun t r => (queueRecord_published t p r).seq (setDue_published _ p r false)) _ s
  · exact foldl_changes _ (fun t r => setDue_published t p r false) _ s

theorem queueAll_published (s : State) : Changes published s s.queueAll :=
  (queueAllOn_published s .trunk).seq (queueAllOn_published _ .spur)

theorem holdContents_changes (s : State) : Changes [.pubs] s s.holdContents := with_pubs _ _

/-- What follows an event, where no commit is pending. -/
theorem finish_changes {s : State} (h : s.store.commitPending = false) : Changes (moving ++ published) s s.finish := by
  rw [finish_of_noCommit h]
  exact (settle_changes s).seq ((publish_changes _).mono published_follow)

/-- The end of a taking, where no commit is pending. -/
theorem conclude_changes {s : State} (h : s.store.commitPending = false) (r : Request) (res : Result) (d : List Byte) :
    Changes (moving ++ published) s (s.conclude r res d) := by
  exact ((finish_changes h).seq ((answer_published _ r res d).mono published_follow)).seq
    ((publish_changes _).mono published_follow)

/-! ### Records that hold their present content -/

theorem publishOne_of_held {s : State} {r : Fin 7} (h : s.exe.pubs[r].held = s.recordContent r) : s.publishOne r = s := by
  unfold State.publishOne
  dsimp only
  rw [if_pos h.symm]

theorem publishAll_of_held {s : State} (h : ∀ r : Fin 7, s.exe.pubs[r].held = s.recordContent r) :
    s.publishAll = s := by
  unfold State.publishAll
  generalize List.finRange 7 = l
  induction l with
  | nil => rfl
  | cons r l ih =>
    rw [List.foldl_cons, publishOne_of_held (h r), ih]

/-- Where every record holds its present content there is nothing to publish. -/
theorem publish_of_held {s : State} (h : ∀ r : Fin 7, s.exe.pubs[r].held = s.recordContent r) : s.publish = s := by
  unfold State.publish
  rw [publishAll_of_held h, publishAll_of_held h]
  split <;> rfl

/-- In a calm state nothing follows. -/
theorem State.Calm.finish {s : State} (h : s.Calm) : s.finish = s := by
  rw [finish_of_noCommit h.noCommit, h.settle, publish_of_held h.held]

/-! ### Replies -/

/-- The entries of an own queue with room for a new entry of each record a port does not hold. -/
def PortState.room (ps : PortState) : Nat :=
  ps.own.length + ((List.finRange 7).filter fun r => !ps.holdsRecord r).length

theorem insertByKey_perm {α : Type} (key : α → Nat) (x : α) (l : List α) : (insertByKey key x l).Perm (x :: l) := by
  induction l with
  | nil => exact List.Perm.refl _
  | cons y l ih =>
    unfold insertByKey
    split
    · exact (List.Perm.cons y ih).trans (List.Perm.swap x y l)
    · exact List.Perm.refl _

theorem insertByKey_length {α : Type} (key : α → Nat) (x : α) (l : List α) :
    (insertByKey key x l).length = l.length + 1 := by
  simpa using (insertByKey_perm key x l).length_eq

theorem mem_insertByKey {α : Type} (key : α → Nat) (x y : α) (l : List α) :
    y ∈ insertByKey key x l ↔ y = x ∨ y ∈ l := by
  rw [(insertByKey_perm key x l).mem_iff, List.mem_cons]

/-- A list in order stays in order as an element joins. -/
theorem insertByKey_sorted {α : Type} (key : α → Nat) (x : α) {l : List α} (h : SortedBy key l) :
    SortedBy key (insertByKey key x l) := by
  unfold SortedBy at *
  induction l with
  | nil => simp [insertByKey]
  | cons y l ih =>
    rw [List.pairwise_cons] at h
    unfold insertByKey
    split
    · next hle =>
      rw [List.pairwise_cons]
      refine ⟨fun z hz => ?_, ih h.2⟩
      rcases (mem_insertByKey key x z l).1 hz with rfl | hz
      · exact hle
      · exact h.1 z hz
    · next hlt =>
      rw [List.pairwise_cons, List.pairwise_cons]
      refine ⟨fun z hz => ?_, h⟩
      rcases List.mem_cons.1 hz with rfl | hz
      · omega
      · have := h.1 z hz
        omega

/-- A reply stands among a list of own entries. -/
def hasReply (f : Frame) (l : List OwnEntry) : Prop := ∃ e ∈ l, e.record = none ∧ e.frame = f

theorem updateRecord_length (ps : PortState) (r : Fin 7) (f : Frame) :
    (ps.updateRecord r f).own.length = ps.own.length := by
  simp [PortState.updateRecord]

theorem updateRecord_holds (ps : PortState) (r q : Fin 7) (f : Frame) :
    (ps.updateRecord r f).holdsRecord q = ps.holdsRecord q := by
  simp only [PortState.updateRecord, PortState.holdsRecord, List.any_map]
  congr 1
  funext e
  simp only [Function.comp]
  split <;> rfl

theorem updateRecord_room (ps : PortState) (r : Fin 7) (f : Frame) : (ps.updateRecord r f).room = ps.room := by
  simp [PortState.room, updateRecord_length, updateRecord_holds]

theorem hasReply_updateRecord {ps : PortState} {g : Frame} (r : Fin 7) (f : Frame) (h : hasReply g ps.own) :
    hasReply g (ps.updateRecord r f).own := by
  obtain ⟨e, he, hr, hf⟩ := h
  refine ⟨e, ?_, hr, hf⟩
  simp only [PortState.updateRecord, List.mem_map]
  exact ⟨e, he, by simp [hr]⟩

theorem joinOwn_holds (ps : PortState) (x : Option (Fin 7)) (f : Frame) (q : Fin 7) :
    (ps.joinOwn x f).holdsRecord q = (decide (x = some q) || ps.holdsRecord q) := by
  rw [Bool.eq_iff_iff]
  simp only [PortState.joinOwn, PortState.holdsRecord, List.any_eq_true, mem_insertByKey, Bool.or_eq_true,
    decide_eq_true_eq, beq_iff_eq]
  constructor
  · rintro ⟨e, rfl | he, h⟩
    · exact .inl h
    · exact .inr ⟨e, he, h⟩
  · rintro (h | ⟨e, he, h⟩)
    · exact ⟨_, .inl rfl, h⟩
    · exact ⟨e, .inr he, h⟩

/-- A new entry for a record takes the room that stood ready for it. -/
theorem joinOwn_record_room {ps : PortState} {r : Fin 7} (f : Frame) (h : ps.holdsRecord r = false) :
    (ps.joinOwn (some r) f).room = ps.room := by
  have hl : (ps.joinOwn (some r) f).own.length = ps.own.length + 1 := insertByKey_length _ _ _
  have hp : ((List.finRange 7).filter fun q => !ps.holdsRecord q).Perm
      (r :: (List.finRange 7).filter fun q => !(ps.joinOwn (some r) f).holdsRecord q) := by
    rw [List.perm_ext_iff_of_nodup]
    · intro q
      simp only [List.mem_filter, List.mem_finRange, true_and, List.mem_cons, joinOwn_holds]
      by_cases e : q = r
      · subst e
        simp [h]
      · have : ¬ (some r = some q) := fun k => e (Option.some.inj k).symm
        simp [e, this]
    · exact (List.nodup_finRange 7).filter _
    · rw [List.nodup_cons]
      refine ⟨?_, (List.nodup_finRange 7).filter _⟩
      simp [joinOwn_holds]
  have hlen := hp.length_eq
  rw [List.length_cons] at hlen
  simp only [PortState.room, hl]
  omega

theorem holds_lt_room {ps : PortState} {r : Fin 7} (h : ps.holdsRecord r = false) : ps.own.length < ps.room := by
  have : r ∈ (List.finRange 7).filter fun q => !ps.holdsRecord q := by simp [h]
  have := List.length_pos_of_mem this
  simp only [PortState.room]
  omega

/-- What a port's own queue keeps through publication, where there is room for every record: the room, and the replies. -/
structure OwnKept (ps qs : PortState) : Prop where
  room : qs.room = ps.room
  phase : qs.phase = ps.phase
  replies : ∀ f, hasReply f ps.own → hasReply f qs.own

theorem OwnKept.refl (ps : PortState) : OwnKept ps ps := ⟨rfl, rfl, fun _ h => h⟩

theorem OwnKept.trans {a b c : PortState} (h : OwnKept a b) (k : OwnKept b c) : OwnKept a c :=
  ⟨k.room.trans h.room, k.phase.trans h.phase, fun f x => k.replies f (h.replies f x)⟩

theorem hasReply_joinOwn {ps : PortState} {g : Frame} (x : Option (Fin 7)) (f : Frame) (h : hasReply g ps.own) :
    hasReply g (ps.joinOwn x f).own := by
  obtain ⟨e, he, hr, hf⟩ := h
  exact ⟨e, (mem_insertByKey _ _ _ _).2 (.inr he), hr, hf⟩

/-- What touches neither a port's own queue nor its link keeps its own queue. -/
theorem Changes.ownKept {l : List Part} {s t : State} (h : Changes l s t) {q : Port} (hl : Part.link q ∉ l)
    (ho : Part.own q ∉ l) : OwnKept (s.port q) (t.port q) := by
  have link : (t.port q).link = (s.port q).link := h (.link q) hl
  have own : (t.port q).own = (s.port q).own := (h (.own q) ho).1
  have phase : (t.port q).phase = (s.port q).phase := congrArg (fun x => x.2.2.2.1) link
  exact ⟨by simp only [PortState.room, PortState.holdsRecord, own], phase, by rw [own]; exact fun _ h => h⟩

theorem port_queueRecord_other (s : State) {p q : Port} (r : Fin 7) (h : q ≠ p) :
    OwnKept (s.port q) ((s.queueRecord p r).port q) :=
  (queueRecord_changes s p r).ownKept (by simp) (by simp [h])

/-- Queuing a record keeps the replies where there is room for every record. -/
theorem queueRecord_kept (s : State) (p q : Port) (r : Fin 7) (h : (s.port q).room ≤ ownMax) :
    OwnKept (s.port q) ((s.queueRecord p r).port q) := by
  by_cases e : q = p
  · subst e
    unfold State.queueRecord
    dsimp only
    split
    · rw [State.port_mapPort_same]
      exact ⟨updateRecord_room _ _ _, rfl, fun _ => hasReply_updateRecord r _⟩
    · next hr =>
      have hr : (s.port q).holdsRecord r = false := by simpa using hr
      have hlt := holds_lt_room hr
      split
      · exact OwnKept.refl _
      · rw [if_pos (by omega)]
        simp only [State.joinRecord, State.startSpacing_port, State.port_mapPort_same]
        exact ⟨joinOwn_record_room _ hr, rfl, fun _ => hasReply_joinOwn _ _⟩
  · exact port_queueRecord_other s r e

theorem setDue_port (s : State) (p : Port) (r : Fin 7) (v : Bool) (q : Port) : (s.setDue p r v).port q = s.port q := by
  cases q <;> rfl

theorem changeOnPort_kept (s : State) (r : Fin 7) (x : Bool) (p q : Port) (h : (s.port q).room ≤ ownMax) :
    OwnKept (s.port q) ((s.changeOnPort r x p).port q) := by
  unfold State.changeOnPort
  split
  · split
    · exact queueRecord_kept _ _ _ _ h
    · split
      · exact queueRecord_kept _ _ _ _ h
      · rw [setDue_port]
        exact OwnKept.refl _
  · exact OwnKept.refl _

theorem publishOne_kept (s : State) (r : Fin 7) (q : Port) (h : (s.port q).room ≤ ownMax) :
    OwnKept (s.port q) ((s.publishOne r).port q) := by
  unfold State.publishOne
  dsimp only
  split
  · exact OwnKept.refl _
  · have h1 := changeOnPort_kept
      { s with exe := { s.exe with pubs := vupdate s.exe.pubs r fun x => { x with held := s.recordContent r } } } r
      s.exe.pubs[r].spacing.isNone .trunk q (by cases q <;> exact h)
    have h2 := changeOnPort_kept _ r s.exe.pubs[r].spacing.isNone .spur q
      (by rw [h1.room]; cases q <;> exact h)
    have h3 := h1.trans h2
    cases q <;> exact h3

theorem publishAll_kept (s : State) (q : Port) (h : (s.port q).room ≤ ownMax) :
    OwnKept (s.port q) (s.publishAll.port q) := by
  unfold State.publishAll
  generalize List.finRange 7 = l
  induction l generalizing s with
  | nil => exact OwnKept.refl _
  | cons r l ih =>
    have k := publishOne_kept s r q h
    exact k.trans (ih _ (by rw [k.room]; exact h))

/-- Publication keeps the replies of a port with room for every record. -/
theorem publish_kept (s : State) (q : Port) (h : (s.port q).room ≤ ownMax) :
    OwnKept (s.port q) (s.publish.port q) := by
  unfold State.publish
  split
  · have k := publishAll_kept s q h
    exact k.trans (publishAll_kept _ q (by rw [k.room]; exact h))
  · exact OwnKept.refl _

theorem evalHandOn_kept (s : State) (q : Port) (h : (s.port q).room ≤ ownMax) :
    OwnKept (s.port q) (s.evalHandOn.port q) := by
  have k : OwnKept (s.port q) (s.evalIfDue.port q) :=
    (evalIfDue_moving s).ownKept (by cases q <;> decide) (by cases q <;> decide)
  rcases evalHandOn_cases s with e | e <;> rw [e]
  · exact k
  · unfold State.handOn
    split
    · exact k.trans (publishOne_kept _ 0 q (by rw [k.room]; exact h))
    · exact k

theorem settleRound_kept (s : State) (q : Port) (h : (s.port q).room ≤ ownMax) :
    OwnKept (s.port q) (s.settleRound.port q) := by
  have run : ∀ (t : State) (a : Axis), OwnKept (t.port q) ((t.tryRun a).port q) := fun t a =>
    ((tryRun_changes t a).mono (axisParts_moving a)).ownKept (by cases q <;> decide) (by cases q <;> decide)
  have k := ((run s .windlass).trans (run _ .platform)).trans (run _ .hatch)
  exact k.trans (evalHandOn_kept _ q (by rw [k.room]; exact h))

/-- Settling keeps the replies of a port with room for every record. -/
theorem settle_kept (s : State) (q : Port) (h : (s.port q).room ≤ ownMax) : OwnKept (s.port q) (s.settle.port q) := by
  have k0 := evalHandOn_kept s q h
  have k1 := k0.trans (settleRound_kept _ q (by rw [k0.room]; exact h))
  have k2 := k1.trans (settleRound_kept _ q (by rw [k1.room]; exact h))
  have k3 := k2.trans (settleRound_kept _ q (by rw [k2.room]; exact h))
  exact k3.trans (settleRound_kept _ q (by rw [k3.room]; exact h))

theorem room_le (ps : PortState) : ps.room ≤ ps.own.length + 7 := by
  have := List.length_filter_le (fun r => !ps.holdsRecord r) (List.finRange 7)
  simp only [List.length_finRange] at this
  simp only [PortState.room]
  omega

theorem length_le_room (ps : PortState) : ps.own.length ≤ ps.room := Nat.le_add_right _ _

theorem replyFrame_congr {s t : State} (h : t.node = s.node) (r : Request) (res : Result) (d : List Byte) :
    t.replyFrame r res d = s.replyFrame r res d := by
  simp [State.replyFrame, h]

/-- A reply joins the own queue of a port that is not ISOLATED and has room. -/
theorem answer_hasReply {s : State} {r : Request} (res : Result) (d : List Byte) (hb : r.broadcast = false)
    (hp : (s.port r.port).phase ≠ .isolated) (hl : (s.port r.port).own.length < ownMax) :
    hasReply (s.replyFrame r res d) ((s.answer r res d).port r.port).own := by
  have hn : (s.port r.port).ownRefuses = false := by
    simp [PortState.ownRefuses, hp, hl]
  simp only [State.answer, State.sendReply, hb, hn]
  rw [if_neg (by decide), if_neg (by decide), State.port_mapPort_same]
  exact ⟨_, (mem_insertByKey _ _ _ _).2 (.inl rfl), rfl, rfl⟩

theorem joinOwn_reply_room (ps : PortState) (f : Frame) : (ps.joinOwn none f).room = ps.room + 1 := by
  have hl : (ps.joinOwn none f).own.length = ps.own.length + 1 := insertByKey_length _ _ _
  simp only [PortState.room, hl, joinOwn_holds]
  simp
  omega

/-- The room after a reply has joined. -/
theorem answer_room_le {s : State} {r : Request} (res : Result) (d : List Byte) :
    ((s.answer r res d).port r.port).room ≤ (s.port r.port).room + 1 := by
  unfold State.answer State.sendReply
  split
  · omega
  · split
    · rw [State.raise_port]
      omega
    · rw [State.port_mapPort_same, joinOwn_reply_room]

/-- Composing a reply and publishing what it brings answers an addressed request where the port keeps a place for it. -/
theorem answered_of_room {s t : State} {r : Request} {res : Result} {d : List Byte} (hn : t.node = s.node)
    (hp : (t.port r.port).phase = (s.port r.port).phase)
    (hroom : (s.port r.port).own.length ≤ 4 → (t.port r.port).room + 1 ≤ ownMax) :
    Answered s (t.answer r res d).publish r res d := by
  intro hb hph hlen
  have hr := hroom hlen
  have hl := length_le_room (t.port r.port)
  have h1 := answer_hasReply (s := t) (r := r) res d hb (by rw [hp]; exact hph) (by omega)
  have h2 := (publish_kept (t.answer r res d) r.port
    (Nat.le_trans (answer_room_le res d) hr)).replies _ h1
  rw [replyFrame_congr hn] at h2
  exact h2

/-- Settling and publishing keep a place for a reply. -/
theorem finish_room {s : State} (h : s.store.commitPending = false) (p : Port) (hl : (s.port p).own.length ≤ 4) :
    (s.finish.port p).room + 1 ≤ ownMax ∧ (s.finish.port p).phase = (s.port p).phase := by
  rw [finish_of_noCommit h]
  have hr : (s.port p).room + 1 ≤ ownMax := by
    have := room_le (s.port p)
    show _ ≤ 12
    omega
  have k := settle_kept s p (by omega)
  have k := k.trans (publish_kept s.settle p (by rw [k.room]; omega))
  exact ⟨by rw [k.room]; exact hr, k.phase⟩

/-- The end of a taking answers an addressed request. `s` is the state before the taking. -/
theorem conclude_answered {s t : State} (h : t.store.commitPending = false) {r : Request} {res : Result} {d : List Byte}
    (hn : t.node = s.node) (hp : (t.port r.port).phase = (s.port r.port).phase)
    (ho : (t.port r.port).own.length ≤ (s.port r.port).own.length) : Answered s (t.conclude r res d) r res d := by
  have hnode : t.finish.node = s.node := by
    have := finish_changes h .node (by decide)
    exact Eq.trans this hn
  unfold State.conclude
  by_cases hlen : (s.port r.port).own.length ≤ 4
  · obtain ⟨h1, h2⟩ := finish_room h r.port (Nat.le_trans ho hlen)
    exact answered_of_room hnode (h2.trans hp) fun _ => h1
  · exact fun _ _ k => absurd k hlen

end Sys2Proof.Machine
end

