-- ==== Sys2Proof/Laws/Ports.lean ====
section
/-! SUPPORT. What the port operations, the forwarding, the intake and the routing may change. -/

namespace Sys2Proof.Machine

/-! ### Port updates -/

/-- An update of a port that keeps its queues changes its link alone. -/
theorem setPort_link_changes (s : State) (p : Port) (x : PortState) (hf : x.fwd = (s.port p).fwd)
    (ho : x.own = (s.port p).own) (hj : x.joins = (s.port p).joins) : Changes [.link p] s (s.setPort p x) := by
  intro q hq
  cases p <;> rcases q with (_ | _ | _ | _ | _ | (_ | _) | (_ | _) | (_ | _) | _) <;>
    first | exact absurd (by decide) hq | rfl | exact ⟨rfl, rfl⟩ | exact ⟨ho, hj⟩ | exact hf

/-- An update of a port that keeps its own queue changes its link and its forward queue. -/
theorem setPort_fwd_changes (s : State) (p : Port) (x : PortState) (ho : x.own = (s.port p).own)
    (hj : x.joins = (s.port p).joins) : Changes [.link p, .fwd p] s (s.setPort p x) := by
  intro q hq
  cases p <;> rcases q with (_ | _ | _ | _ | _ | (_ | _) | (_ | _) | (_ | _) | _) <;>
    first | exact absurd (by decide) hq | rfl | exact ⟨rfl, rfl⟩ | exact ⟨ho, hj⟩

/-- An update of a port that keeps its link and its own queue changes its forward queue alone. -/
theorem setPort_fwd_only_changes (s : State) (p : Port) (x : PortState) (hl : x.link = (s.port p).link)
    (ho : x.own = (s.port p).own) (hj : x.joins = (s.port p).joins) : Changes [.fwd p] s (s.setPort p x) := by
  intro q hq
  cases p <;> rcases q with (_ | _ | _ | _ | _ | (_ | _) | (_ | _) | (_ | _) | _) <;>
    first | exact absurd (by decide) hq | rfl | exact ⟨rfl, rfl⟩ | exact ⟨ho, hj⟩ | exact hl

theorem mapPort_changes (s : State) (p : Port) (f : PortState → PortState) :
    Changes [.link p, .fwd p, .own p] s (s.mapPort p f) :=
  setPort_changes s p _

/-- `mapPort` as an update with the value it computes. -/
theorem mapPort_link_changes (s : State) (p : Port) (f : PortState → PortState)
    (hf : (f (s.port p)).fwd = (s.port p).fwd) (ho : (f (s.port p)).own = (s.port p).own)
    (hj : (f (s.port p)).joins = (s.port p).joins) : Changes [.link p] s (s.mapPort p f) :=
  setPort_link_changes s p (f (s.port p)) hf ho hj

theorem startGap_changes (s : State) (p : Port) : Changes [.link p] s (s.startGap p) :=
  mapPort_link_changes s p (fun ps => { ps with line := .gap (s.gapTime p) }) rfl rfl rfl

/-- A release touches the port's link and the mark of a frame under way alone (R17). -/
theorem releasePort_changes (s : State) (p : Port) : Changes [.link p, .inputs] s (s.releasePort p) :=
  Changes.trans (mapPort_link_changes s p _ rfl rfl rfl) (setBusy_changes _ p false)

/-- A released port waits for its first gap, and for the end of a frame under way before it (R17). -/
theorem releasePort_line (s : State) (p : Port) :
    ((s.releasePort p).port p).line = .release (if s.inp.busy p then none else some (s.gapTime p)) := by
  simp [State.releasePort]

/-! ### Score and states -/

theorem enterDegraded_changes (s : State) (p : Port) : Changes [.link p, .fwd p, .events] s (s.enterDegraded p) := by
  unfold State.enterDegraded
  dsimp only
  refine Changes.seq (Changes.seq (Changes.mono (setPort_fwd_changes s p _ ?_ ?_) ?_) ((raise_changes _ _).mono ?_))
    ((raiseIf_changes _ _ _).mono ?_) <;> first | rfl | simp

theorem enterIsolated_changes (s : State) (p : Port) :
    Changes [.link p, .fwd p, .own p, .events] s (s.enterIsolated p) := by
  unfold State.enterIsolated
  dsimp only
  refine Changes.seq (Changes.seq (Changes.seq (Changes.mono (setPort_changes s p _) ?_) ((raiseIf_changes _ _ _).mono ?_))
    ((raiseIf_changes _ _ _).mono ?_)) ((raise_changes _ _).mono ?_) <;> simp

/-- The state test that follows a change of the score (R10, R11). -/
theorem testScore_changes (s : State) (p : Port) : Changes [.link p, .fwd p, .own p, .events] s (s.testScore p) := by
  unfold State.testScore
  dsimp only
  split
  · split
    · exact (enterDegraded_changes s p).mono (by simp)
    · exact Changes.refl _ _
  · split
    · exact enterIsolated_changes s p
    · split
      · exact Changes.mono (setPort_link_changes s p { s.port p with phase := .active } rfl rfl rfl) (by simp)
      · exact Changes.refl _ _
  · exact Changes.refl _ _

theorem raiseScore_changes (s : State) (p : Port) (n : Nat) :
    Changes [.link p, .fwd p, .own p, .events] s (s.raiseScore p n) := by
  unfold State.raiseScore
  split
  · exact Changes.refl _ _
  · exact Changes.seq (Changes.mono
      (mapPort_link_changes s p (fun ps => { ps with score := min 255 (ps.score + n) }) rfl rfl rfl) (by simp))
      (testScore_changes _ p)

theorem lowerScore_changes (s : State) (p : Port) :
    Changes [.link p, .fwd p, .own p, .events] s (s.lowerScore p) := by
  unfold State.lowerScore
  split
  · exact Changes.refl _ _
  · exact Changes.seq (Changes.mono
      (mapPort_link_changes s p (fun ps => { ps with score := ps.score - 1 }) rfl rfl rfl) (by simp))
      (testScore_changes _ p)

theorem receiveError_changes (s : State) (p : Port) :
    Changes [.link p, .fwd p, .own p, .events] s (s.receiveError p) := by
  unfold State.receiveError
  split
  · exact Changes.mono (mapPort_link_changes s p (fun ps => { ps with run := 0 }) rfl rfl rfl) (by simp)
  · exact raiseScore_changes s p 1

/-- A port's own part of what a reception may change. -/
def receptionParts (p : Port) : List Part := [.link p, .fwd p] ++ published

theorem own_mem_reception (p q : Port) : Part.own q ∈ receptionParts p := by
  cases q <;> simp [receptionParts, published]

theorem reception_sub (p : Port) : ∀ q ∈ [Part.link p, .fwd p, .own p, .events], q ∈ receptionParts p := by
  intro q hq
  simp only [List.mem_cons, List.not_mem_nil, or_false] at hq
  rcases hq with rfl | rfl | rfl | rfl
  · simp [receptionParts]
  · simp [receptionParts]
  · exact own_mem_reception p p
  · simp [receptionParts, published]

theorem goodReception_changes (s : State) (p : Port) : Changes (receptionParts p) s (s.goodReception p) := by
  have sub : ∀ q ∈ [Part.link p], q ∈ receptionParts p := by simp [receptionParts]
  unfold State.goodReception
  dsimp only
  split
  · split
    · exact Changes.seq
        (Changes.mono (setPort_link_changes s p { s.port p with phase := .active, score := 0, run := 0 } rfl rfl rfl) sub)
        ((queueAllOn_published _ p).mono fun _ h => List.mem_append_right _ h)
    · exact Changes.mono (setPort_link_changes s p { s.port p with run := (s.port p).run + 1 } rfl rfl rfl) sub
  · exact (lowerScore_changes s p).mono (reception_sub p)

/-! ### Forwarding, intake and routing -/

/-- A frame offered to a forward queue changes that queue and may raise FORWARD_DROP (R31 to R35). -/
theorem offerForward_changes (s : State) (p : Port) (f : Frame) : Changes [.fwd p, .events] s (s.offerForward p f) := by
  have r : Changes [.fwd p, .events] s (s.raise .forwardDrop) := (raise_changes s _).mono (by simp)
  unfold State.offerForward
  dsimp only
  split
  · exact r
  · split
    · exact r
    · split
      · exact Changes.mono (setPort_fwd_only_changes s p { s.port p with fwd := (s.port p).fwd ++ [f] } rfl rfl rfl)
          (by simp)
      · split
        · exact r
        · split
          · exact r
          · next l _ =>
              exact Changes.trans (setPort_fwd_only_changes s p { s.port p with fwd := l ++ [f] } rfl rfl rfl)
                (raise_changes _ _)

theorem forward_changes (s : State) (p : Port) (f : Frame) :
    Changes [.fwd (otherPort p), .events] s (s.forward p f) := by
  unfold State.forward
  cases p <;> dsimp only <;> split <;> first | exact offerForward_changes s _ f | exact Changes.refl _ _

/-- A delivery to intake changes the intake queue, and what a BUSY reply may (R52, R53). -/
theorem deliver_changes (s : State) (r : Request) : Changes (.intake :: published) s (s.deliver r) := by
  have sub : ∀ p ∈ published, p ∈ Part.intake :: published := fun p h => List.mem_cons_of_mem _ h
  have sub' : ∀ p ∈ [Part.intake], p ∈ Part.intake :: published := by simp
  unfold State.deliver
  dsimp only
  split
  · exact (setIntake_changes s _).mono sub'
  · split
    · exact (answer_published s r _ _).mono sub
    · split
      · exact (((setIntake_changes s _).mono sub').seq ((answer_published _ _ _ _).mono sub)).seq
          ((raise_changes _ _).mono (by decide))
      · exact (answer_published s r _ _).mono sub

theorem notice_changes (s : State) (n : Fin 32 → Bool) : Changes (.permits :: moving) s (s.notice n) := by
  unfold State.notice
  dsimp only
  split
  · exact evalPermits_changes s _
  · split
    · exact (evalPermits_changes s _).seq ((wantEval_changes _).mono (by decide))
    · exact evalPermits_changes s _

theorem capture_changes (s : State) (f : Frame) : Changes (.watch :: .permits :: moving) s (s.capture f) := by
  unfold State.capture
  dsimp only
  split
  · exact ((with_watch s _).mono (by simp)).seq ((notice_changes _ _).mono fun p h => List.mem_cons_of_mem _ h)
  · exact Changes.refl _ _

/-- What the routing of a request may change (R23 to R30). -/
theorem routeRequest_changes (s : State) (p : Port) (f : Frame) :
    Changes (.intake :: .fwd (otherPort p) :: published) s (s.routeRequest p f) := by
  have sub : ∀ q ∈ Part.intake :: published, q ∈ Part.intake :: .fwd (otherPort p) :: published := by
    intro q h
    rcases List.mem_cons.1 h with rfl | h
    · exact List.mem_cons_self
    · exact List.mem_cons_of_mem _ (List.mem_cons_of_mem _ h)
  have subf : ∀ q ∈ [Part.fwd (otherPort p), .events], q ∈ Part.intake :: .fwd (otherPort p) :: published := by
    simp [published]
  unfold State.routeRequest
  split
  · split
    · exact (deliver_changes s _).mono sub
    · exact (sendReply_published s _ _ _).mono fun q h => sub q (List.mem_cons_of_mem _ h)
  · split
    · refine Changes.seq ?_ ((forward_changes _ p f).mono subf)
      split
      · exact (deliver_changes s _).mono sub
      · exact Changes.refl _ _
    · exact (forward_changes s p f).mono subf

/-- The routing of a frame touches the link of no port. -/
theorem route_link (s : State) (p q : Port) (f : Frame) : ((s.route p f).port q).link = (s.port q).link := by
  have hr : ((s.routeRequest p f).port q).link = (s.port q).link :=
    routeRequest_changes s p f (.link q) (by simp [published])
  have hf : ∀ t : State, ((t.forward p f).port q).link = (t.port q).link := fun t =>
    forward_changes t p f (.link q) (by simp)
  have hc : ((s.capture f).port q).link = (s.port q).link :=
    capture_changes s f (.link q) (by simp [moving, evaluated])
  unfold State.route
  split
  · rw [hf, hc]
  · split
    · rfl
    · rw [hf]
  · exact hr
  · exact hr

/-- Settling and publishing touch the link of no port, where no commit is pending. -/
theorem finish_link {s : State} (h : s.store.commitPending = false) (q : Port) :
    (s.finish.port q).link = (s.port q).link :=
  finish_changes h (.link q) (by cases q <;> decide)

end Sys2Proof.Machine
end

