-- ==== Sys2Proof/Laws/Commit.lean ====
section
/-! SUPPORT. An applied commit, a pending one, and the end of every event: what each may change. -/

namespace Sys2Proof.Machine

theorem commitFitted_changes (s : State) (was : Bool) (a : Axis) : Changes [.axis a] s (s.commitFitted was a) := by
  unfold State.commitFitted
  split
  · exact Changes.refl _ _
  · split
    · exact derivePosition_changes s a
    · exact (derivePosition_changes s a).seq (mapAxis_changes _ a _)

/-- The output stage replaced, but for the valves and the bridge. -/
theorem with_pwm_buffers (s : State) (o : Outputs) (hv : o.valves = s.out.valves) (hb : o.bridge = s.out.bridge) :
    Changes [.pwm, .buffers] s { s with out := o } := by
  intro p hp
  cases p <;> first | exact absurd (by decide) hp | exact hv | exact hb | rfl | exact ⟨rfl, rfl⟩

theorem restartBank_changes (s : State) (b : Fin 3) : Changes [.pwm, .buffers] s (s.restartBank b) := by
  unfold State.restartBank State.periodStart
  refine with_pwm_buffers s _ ?_ ?_ <;> rfl

theorem commitBank_changes (s : State) (b : Fin 3) : Changes [.pwm, .buffers] s (s.commitBank b) := by
  unfold State.commitBank
  split
  · exact Changes.refl _ _
  · exact restartBank_changes s b

theorem commitHolds_changes (s : State) (old : Fin 24 → Bool) : Changes [.pwm, .buffers] s (s.commitHolds old) := by
  unfold State.commitHolds
  refine with_pwm_buffers s _ ?_ ?_ <;> simp only [Outputs.valves]

theorem commitOutputs_changes (s : State) (old : Fin 24 → Bool) : Changes [.pwm, .buffers] s (s.commitOutputs old) :=
  (((commitHolds_changes s old).seq (commitBank_changes _ 0)).seq (commitBank_changes _ 1)).seq (commitBank_changes _ 2)

theorem refreshEntries_changes (s : State) (p : Port) : Changes published s (s.refreshEntries p) := by
  refine foldl_changes _ (fun t r => ?_) _ _
  split
  · exact queueRecord_published t p r
  · exact Changes.refl _ _

theorem commitEntries_changes (s : State) (was : Bool) : Changes published s (s.commitEntries was) := by
  have h := (refreshEntries_changes s .trunk).seq (refreshEntries_changes _ .spur)
  unfold State.commitEntries
  dsimp only
  split
  · split
    · exact h
    · exact h.seq (queueAllOn_published _ .spur)
  · refine (h.seq ?_).seq (foldl_changes _ (fun t r => setDue_published t .spur r false) _ _)
    exact (mapPort_own_changes _ .spur PortState.dropRecords rfl rfl).mono (by decide)

/-- What an applied commit may change (R81, R66): the banks' roles, the slots, and whatever the blocks take up. -/
def commitParts : List Part := [.active, .commit, .watch, .refresh, .permits, .pwm] ++ moving ++ published

theorem takeShadow_changes (s : State) : Changes commitParts s s.takeShadow := by
  intro p hp
  cases p <;> first | exact absurd (by decide) hp | rfl | exact ⟨rfl, rfl⟩

theorem applyCommit_changes (s : State) : Changes commitParts s s.applyCommit := by
  have axis : ∀ a : Axis, Part.axis a ∈ commitParts := by intro a; cases a <;> decide
  have pos : ∀ (t : State) (w : Bool) (a : Axis), Changes commitParts t (t.commitFitted w a) := fun t w a =>
    (commitFitted_changes t w a).mono (by simp [axis])
  have count : ∀ t : State, Changes commitParts t t.commitCounter := fun t => (with_windlass t _).mono (by decide)
  unfold State.applyCommit
  dsimp only
  refine Changes.seq (Changes.seq ?_ ((commitOutputs_changes _ _).mono (by decide)))
    ((commitEntries_changes _ _).mono (by decide))
  refine Changes.seq (Changes.seq (Changes.seq ?_ ((evalPermits_changes _ _).mono (by decide)))
    ((wantEval_changes _).mono (by decide))) ((evalIfDue_moving _).mono (by decide))
  exact ((((((takeShadow_changes s).seq ((startRefresh_changes _).mono (by decide))).seq (pos _ _ _)).seq (pos _ _ _)).seq
    (pos _ _ _)).seq (count _))

theorem commitIfReady_changes (s : State) : Changes commitParts s s.commitIfReady := by
  unfold State.commitIfReady
  split
  · exact applyCommit_changes s
  · exact Changes.refl _ _

/-- The end of every event, whether or not a commit is pending. -/
theorem finish_commitParts (s : State) : Changes commitParts s s.finish :=
  (((settle_changes s).mono (by decide)).seq (commitIfReady_changes _)).seq ((publish_changes _).mono (by decide))

end Sys2Proof.Machine
end

