-- ==== Sys2Proof/Laws/Clock.lean ====
section
/-! SUPPORT. A count of the time base, and the levels of the inputs: what each may change and what it leaves. -/

namespace Sys2Proof.Machine

/-! ### One count of the time base -/

/-- What a count of the time base may change: the clocks, timers and ages, and the samples of the inputs. No queue, bank,
permit, reservation, override or request is among it. -/
def countParts : List Part :=
  [.power, .clock, .choice, .link .trunk, .link .spur, .watch, .intake, .saveCtx, .pubs, .refresh, .groups,
   .axis .windlass, .axis .platform, .axis .hatch, .windlass, .pwm, .bridge, .inputs]

theorem msStep_changes (s : State) : Changes countParts s s.msStep := by
  unfold State.msStep
  split
  · exact Changes.refl _ _
  · intro p hp
    cases p <;> first | exact absurd (by decide) hp | rfl | exact ⟨rfl, rfl⟩
  · intro p hp
    rcases p with (_ | _ | _ | _ | _ | (_ | _) | (_ | _) | (_ | _) | _ | _ | _ | _ | _ | _ | _ | _ | _ | _ | _ | _ | _ | _ |
      _ | _ | (_ | _ | _) | _) <;>
      first | exact absurd (by decide) hp | rfl | exact ⟨rfl, rfl⟩

theorem countBanks_changes (s : State) : Changes [.pwm] s s.countBanks := by
  intro p hp
  cases p <;> first | exact absurd (by decide) hp | rfl | exact ⟨rfl, rfl⟩

theorem advance_changes (s : State) : Changes countParts s s.advance := by
  have h : Changes countParts s
      { s with
        clock := (s.clock + 1) % 10000, trunk := s.trunk.tick, spur := s.spur.tick
        out := { s.out with bridge := s.out.bridge.tick } } := by
    intro p hp
    rcases p with (_ | _ | _ | _ | _ | (_ | _) | (_ | _) | (_ | _) | _) <;>
      first | exact absurd (by decide) hp | rfl | exact ⟨rfl, rfl⟩
  unfold State.advance
  dsimp only
  split
  · split
    · exact (h.seq ((countBanks_changes _).mono (by decide))).seq (msStep_changes _)
    · exact h.seq (msStep_changes _)
  · split
    · exact h.seq ((countBanks_changes _).mono (by decide))
    · exact h

/-- While a frame that it does not take up is under way, time alone does not let a released port join (R17). -/
theorem PortState.tick_release_none {ps : PortState} (h : ps.line = .release none) :
    ps.tick = ps ∧ ps.dueIdle = false := by
  rcases ps with ⟨fast, line, score, phase, run, fwd, own, joins⟩
  cases h
  exact ⟨rfl, rfl⟩

/-- An event that stands due answers what its command answers, but for the e-stop pin, which it leaves. -/
theorem runDue_next {s t : State} {i : Instr} (h : exec i s = .next t) :
    s.runDue i = .next { t with inp := { t.inp with estopHigh := s.inp.estopHigh } } := by
  unfold State.runDue
  rw [h]

/-! ### The levels of the inputs -/

/-- A change taken sets the level of its input (R173). -/
theorem takeInput_same (s : State) (i : Fin 13) (v : Bool) : (s.takeInput i v).input i = v := by
  unfold State.takeInput State.input
  rw [vupdate_get_same]

theorem takeInput_other (s : State) {i j : Fin 13} (v : Bool) (h : j ≠ i) : (s.takeInput i v).input j = s.input j := by
  unfold State.takeInput State.input
  rw [vupdate_get_other _ _ h]

/-- Changes taken together change the inputs alone. -/
theorem takeChanges_changes (s : State) (l : List (Fin 13 × Bool)) : Changes [.inputs] s (s.takeChanges l) := by
  unfold State.takeChanges
  induction l generalizing s with
  | nil => exact Changes.refl _ _
  | cons p l ih =>
    rw [List.foldl_cons]
    split
    · exact ih s
    · exact (takeInput_changes s p.1 p.2).seq (ih _)

/-- An input whose level the changes name keep, or that they do not name, keeps its pin and its stability count (R173). -/
theorem takeChanges_keeps (s : State) (l : List (Fin 13 × Bool)) (i : Fin 13) (h : ∀ p ∈ l, p.1 = i → p.2 = s.input i) :
    (s.takeChanges l).inp.debounced[i] = s.inp.debounced[i] := by
  unfold State.takeChanges
  induction l generalizing s with
  | nil => rfl
  | cons p l ih =>
    rw [List.foldl_cons]
    split
    · exact ih s fun q hq => h q (List.mem_cons_of_mem _ hq)
    · next hp =>
      have ne : i ≠ p.1 := fun e => hp (by rw [h p (List.mem_cons_self ..) e.symm, e])
      rw [ih _ fun q hq e => (h q (List.mem_cons_of_mem _ hq) e).trans (takeInput_other s p.2 ne).symm]
      exact vupdate_get_other _ _ ne

/-! ### The counters of the PWM banks -/

/-- A count keeps the counter of a bank below its period (R167). -/
theorem PwmBank.tick_counter {x : PwmBank} (h : x.counter < x.period) :
    x.tick.counter < x.tick.period ∧ x.tick.period = x.period := by
  unfold PwmBank.tick
  split
  · exact ⟨by assumption, rfl⟩
  · exact ⟨h, rfl⟩

/-- An update that keeps the inputs keeps every level. -/
theorem Changes.input {l : List Part} {s t : State} (h : Changes l s t) (hi : Part.inputs ∉ l) (i : Fin 13) :
    t.input i = s.input i := by
  unfold State.input
  rw [h .inputs hi]

end Sys2Proof.Machine
end

