-- ==== Sys2Proof/Laws/Lighting.lean ====
section
/-! SUPPORT. The lighting engine's shared operations: fades, the override stack, and what each leaves of a group. -/

namespace Sys2Proof.Machine

/-! ### Fades -/

/-- A fade of a time other than 0 leaves the level and starts at elapsed step 0 (R92). -/
theorem startFade_pos {f : Nat} (level target : Nat) (h : f ≠ 0) :
    startFade level target f = (level, some { start := level, elapsed := 0, steps := f * 10, wait := 10 }) :=
  if_neg h

@[simp] theorem startFade_zero (level target : Nat) : startFade level target 0 = (target, none) := rfl

/-! ### The override stack -/

/-- A placed entry stands below the entries of higher priority and above all others, which keep their order (R102), in a
stack in falling order of priority. -/
theorem placeOverride_split (o : Override) (st : List Override) (h : st.Pairwise fun x y => y.priority ≤ x.priority) :
    placeOverride o st =
      (st.filter fun x => decide (o.priority < x.priority)) ++ o ::
        st.filter fun x => decide (x.priority ≤ o.priority) := by
  induction st with
  | nil => rfl
  | cons y ys ih =>
    obtain ⟨hy, hs⟩ := List.pairwise_cons.1 h
    unfold placeOverride
    split
    · next hle =>
      have h1 : ∀ x ∈ y :: ys, x.priority ≤ o.priority := by
        intro x hx
        rcases List.mem_cons.1 hx with rfl | hx
        · exact hle
        · exact Nat.le_trans (hy x hx) hle
      rw [List.filter_eq_nil_iff.2 fun x hx => by simp [h1 x hx], List.filter_eq_self.2 fun x hx => by simp [h1 x hx]]
      rfl
    · next hlt =>
      have hgt : o.priority < y.priority := Nat.lt_of_not_le hlt
      rw [ih hs, List.filter_cons_of_pos (by simpa using hgt), List.filter_cons_of_neg (by simpa using hgt)]
      rfl

theorem placeOverride_perm (o : Override) (st : List Override) : (placeOverride o st).Perm (o :: st) := by
  induction st with
  | nil => exact List.Perm.refl _
  | cons y ys ih =>
    unfold placeOverride
    split
    · exact List.Perm.refl _
    · exact (ih.cons y).trans (List.Perm.swap o y ys)

/-- A stack without an entry of the source is left by its release. -/
theorem dropSource_of_absent {src : Nat} {st : List Override} (h : hasSource src st = false) : dropSource src st = st := by
  refine List.filter_eq_self.2 fun o ho => ?_
  have := List.any_eq_false.1 h o ho
  simpa using this

/-- A base command leaves the override stack and the mode of a group that is governed or follows. -/
@[simp] theorem baseCommand_stack (g : LightGroup) (l f : Nat) : (baseCommand g l f).stack = g.stack := by
  unfold baseCommand
  cases g.mode <;> rfl

@[simp] theorem afterStack_stack (g : LightGroup) (st : List Override) (t : Nat) : (afterStack g st t).stack = st := by
  unfold afterStack
  split
  · split
    · next h => exact h
    · rfl
  · split <;> rfl

end Sys2Proof.Machine
end

