-- ==== Sys2Proof/Laws/Memory.lean ====
section
/-! SUPPORT. The banks as memories: a read after a write, and that every operation keeps the canonical form. -/

namespace Sys2Proof.Machine

/-! ### The canonical form as a proposition -/

/-- Every place listed lies at or behind `n` and before the end, no listed byte is a default, and the places rise. -/
def Listed : Nat → Bank → Prop
  | _, [] => True
  | n, (k, v) :: r => n ≤ k ∧ k < bankBytes ∧ v ≠ defaultByte k ∧ Listed (k + 1) r

theorem Listed.mono {b : Bank} {m n : Nat} (h : Listed n b) (hm : m ≤ n) : Listed m b := by
  cases b with
  | nil => trivial
  | cons c r => exact ⟨Nat.le_trans hm h.1, h.2⟩

theorem memoryWf_iff (b : Bank) : Memory.wf b = true ↔ Listed 0 b := by
  have step : ∀ (r : Bank) (n : Nat), Memory.wf r = true → (∀ c ∈ r.head?, n ≤ c.1) → Listed n r := by
    intro r
    induction r with
    | nil => exact fun _ _ _ => trivial
    | cons c r ih =>
      obtain ⟨k, v⟩ := c
      intro n hw hn
      cases r with
      | nil =>
        simp only [Memory.wf, Bool.and_eq_true, decide_eq_true_eq, bne_iff_ne] at hw
        exact ⟨hn _ rfl, hw.1, hw.2, trivial⟩
      | cons c' r' =>
        obtain ⟨k', v'⟩ := c'
        simp only [Memory.wf, Bool.and_eq_true, decide_eq_true_eq, bne_iff_ne] at hw
        have h' := ih (k + 1) hw.2 (by intro c hc; cases hc; exact hw.1.1)
        exact ⟨hn _ rfl, Nat.lt_trans hw.1.1 h'.2.1, hw.1.2, h'⟩
  have back : ∀ (r : Bank) (n : Nat), Listed n r → Memory.wf r = true := by
    intro r
    induction r with
    | nil => exact fun _ _ => rfl
    | cons c r ih =>
      obtain ⟨k, v⟩ := c
      intro n h
      cases r with
      | nil => simp only [Memory.wf, Bool.and_eq_true, decide_eq_true_eq, bne_iff_ne]; exact ⟨h.2.1, h.2.2.1⟩
      | cons c' r' =>
        obtain ⟨k', v'⟩ := c'
        simp only [Memory.wf, Bool.and_eq_true, decide_eq_true_eq, bne_iff_ne]
        exact ⟨⟨h.2.2.2.1, h.2.2.1⟩, ih _ h.2.2.2⟩
  exact ⟨fun h => step b 0 h fun _ _ => Nat.zero_le _, back b 0⟩

/-- A place before every listed one reads as its default. -/
theorem bankRead_before {b : Bank} {n a : Nat} (h : Listed n b) (ha : a < n) : bankRead b a = defaultByte a := by
  induction b generalizing n with
  | nil => rfl
  | cons c r ih =>
    obtain ⟨k, v⟩ := c
    have h1 := h.1
    have hne : k ≠ a := by omega
    simp only [bankRead, hne, if_false]
    exact ih h.2.2.2 (by omega)

/-! ### Writes -/

theorem bankWrite_listed {b : Bank} {n a : Nat} (v : Byte) (h : Listed n b) (hn : n ≤ a) (ha : a < bankBytes) :
    Listed n (bankWrite b a v) := by
  induction b generalizing n with
  | nil =>
    unfold bankWrite
    split
    · trivial
    · next hv => exact ⟨hn, ha, hv, trivial⟩
  | cons c r ih =>
    obtain ⟨k, w⟩ := c
    unfold bankWrite
    split
    · next hlt =>
      split
      · exact h
      · next hv => exact ⟨hn, ha, hv, hlt, h.2⟩
    · split
      · next e =>
        subst e
        split
        · exact h.2.2.2.mono (by have := h.1; omega)
        · next hv => exact ⟨h.1, h.2.1, hv, h.2.2.2⟩
      · exact ⟨h.1, h.2.1, h.2.2.1, ih h.2.2.2 (by omega)⟩

/-- A write keeps the canonical form. -/
theorem bankWrite_wf {b : Bank} {a : Nat} (v : Byte) (h : Memory.wf b = true) (ha : a < bankBytes) :
    Memory.wf (bankWrite b a v) = true :=
  (memoryWf_iff _).2 (bankWrite_listed v ((memoryWf_iff _).1 h) (Nat.zero_le _) ha)

/-- A read after a write to the same place gives the byte written. -/
theorem bankRead_write_same {b : Bank} {n a : Nat} (v : Byte) (h : Listed n b) : bankRead (bankWrite b a v) a = v := by
  induction b generalizing n with
  | nil =>
    unfold bankWrite
    split
    · next hv => exact hv.symm
    · simp [bankRead]
  | cons c r ih =>
    obtain ⟨k, w⟩ := c
    unfold bankWrite
    split
    · next hlt =>
      split
      · next hv =>
        have hne : k ≠ a := by omega
        simp only [bankRead, hne, if_false]
        rw [bankRead_before h.2.2.2 (by omega), hv]
      · simp [bankRead]
    · split
      · next e =>
        subst e
        split
        · next hv => rw [bankRead_before h.2.2.2 (by omega), hv]
        · simp [bankRead]
      · next hk =>
        have hne : k ≠ a := fun e => hk e.symm
        simp only [bankRead, hne, if_false]
        exact ih h.2.2.2

/-- A write leaves every other place. -/
theorem bankRead_write_other {b : Bank} {a c : Nat} (v : Byte) (hc : c ≠ a) :
    bankRead (bankWrite b a v) c = bankRead b c := by
  have hc' : a ≠ c := fun e => hc e.symm
  induction b with
  | nil =>
    unfold bankWrite
    split
    · rfl
    · simp [bankRead, hc']
  | cons x r ih =>
    obtain ⟨k, w⟩ := x
    unfold bankWrite
    split
    · split
      · rfl
      · simp [bankRead, hc']
    · split
      · next e =>
        subst e
        split <;> simp [bankRead, hc']
      · simp only [bankRead, ih]

/-- Bytes written from a place on keep the canonical form. -/
theorem bankWriteBytes_wf {b : Bank} {a : Nat} (l : List Byte) (h : Memory.wf b = true) (ha : a + l.length ≤ bankBytes) :
    Memory.wf (bankWriteBytes b a l) = true := by
  induction l generalizing a b with
  | nil => exact h
  | cons v l ih =>
    simp only [List.length_cons] at ha
    exact ih (bankWrite_wf v h (by omega)) (by omega)

/-- A write of bytes leaves every place outside them. -/
theorem bankRead_writeBytes_other {b : Bank} {a c : Nat} (l : List Byte) (hc : c < a ∨ a + l.length ≤ c) :
    bankRead (bankWriteBytes b a l) c = bankRead b c := by
  induction l generalizing a b with
  | nil => rfl
  | cons v l ih =>
    simp only [List.length_cons] at hc
    rw [bankWriteBytes, ih (by omega), bankRead_write_other v (by omega)]

/-- Bytes written from a place on read back. -/
theorem bankRead_writeBytes {b : Bank} {a : Nat} (l : List Byte) (h : Memory.wf b = true)
    (ha : a + l.length ≤ bankBytes) (i : Nat) (hi : i < l.length) : bankRead (bankWriteBytes b a l) (a + i) = l[i] := by
  induction l generalizing a b i with
  | nil => simp at hi
  | cons v l ih =>
    simp only [List.length_cons] at ha hi
    cases i with
    | zero =>
      rw [bankWriteBytes, bankRead_writeBytes_other l (by omega)]
      exact bankRead_write_same v ((memoryWf_iff _).1 h)
    | succ i =>
      have := ih (b := bankWrite b a v) (a := a + 1) (bankWrite_wf v h (by omega)) (by omega) i (by omega)
      rw [bankWriteBytes, List.getElem_cons_succ, ← this]
      congr 1
      omega

/-- A table's entries stand within the bank. -/
theorem bankAddr_room {t : Table} {i : Nat} (ht : t ≠ .watchLive) (hi : i < t.entries) :
    bankAddr t i 0 + t.entryBytes ≤ bankBytes := by
  cases t <;> simp only [Table.entries, bankAddr, Table.base, Table.entryBytes, bankBytes] at * <;>
    first | omega | exact absurd rfl ht

/-- An entry written whole keeps the canonical form. -/
theorem bankSetEntry_wf {b : Bank} {t : Table} {i : Nat} {e : List Byte} (h : Memory.wf b = true) (ht : t ≠ .watchLive)
    (hi : i < t.entries) (he : e.length ≤ t.entryBytes) : Memory.wf (bankSetEntry b t i e) = true := by
  have := bankAddr_room ht hi
  exact bankWriteBytes_wf e h (by omega)

/-- An entry written whole reads back. -/
theorem bankEntry_set {b : Bank} {t : Table} {i : Nat} {e : List Byte} (h : Memory.wf b = true) (ht : t ≠ .watchLive)
    (hi : i < t.entries) (he : e.length = t.entryBytes) : bankEntry (bankSetEntry b t i e) t i = e := by
  have hroom := bankAddr_room ht hi
  refine List.ext_getElem ?_ fun k h1 h2 => ?_
  · simp [bankEntry, he]
  · simp only [bankEntry, List.getElem_map, List.getElem_range, bankSetEntry]
    have := bankRead_writeBytes (b := b) (a := bankAddr t i 0) e h (by omega) k h2
    simpa [bankAddr] using this

/-! ### Banks rebuilt entry by entry -/

/-- Two runs of cells, the second behind the first, make a listed bank. -/
theorem listed_append {b c : Bank} {n m : Nat} (hb : Listed n b) (hc : Listed m c) (hlt : ∀ x ∈ b, x.1 < m)
    (hn : n ≤ m) : Listed n (b ++ c) := by
  induction b generalizing n with
  | nil => exact hc.mono hn
  | cons x r ih =>
    obtain ⟨k, v⟩ := x
    exact ⟨hb.1, hb.2.1, hb.2.2.1,
      ih hb.2.2.2 (fun y hy => hlt y (List.mem_cons_of_mem _ hy)) (hlt (k, v) List.mem_cons_self)⟩

theorem cellsFrom_listed {a : Nat} (l : List Byte) (ha : a + l.length ≤ bankBytes) : Listed a (cellsFrom a l) := by
  induction l generalizing a with
  | nil => trivial
  | cons v l ih =>
    simp only [List.length_cons] at ha
    unfold cellsFrom
    split
    · exact (ih (by omega)).mono (Nat.le_succ a)
    · next hv => exact ⟨Nat.le_refl _, by omega, hv, ih (by omega)⟩

theorem cellsFrom_lt {a : Nat} (l : List Byte) : ∀ x ∈ cellsFrom a l, x.1 < a + l.length := by
  induction l generalizing a with
  | nil => simp [cellsFrom]
  | cons v l ih =>
    intro x hx
    unfold cellsFrom at hx
    simp only [List.length_cons]
    split at hx
    · have := ih x hx
      omega
    · rcases List.mem_cons.1 hx with rfl | hx
      · simp
      · have := ih x hx
        omega

/-- Runs of cells for consecutive spans make one listed bank. -/
theorem flatMap_listed (start : Nat → Nat) (f : Nat → Bank) (n : Nat) (rise : ∀ i, start i ≤ start (i + 1))
    (hf : ∀ i < n, Listed (start i) (f i)) (hlt : ∀ i < n, ∀ x ∈ f i, x.1 < start (i + 1)) :
    Listed (start 0) ((List.range n).flatMap f) ∧ ∀ x ∈ (List.range n).flatMap f, x.1 < start n := by
  have mono : ∀ i, start 0 ≤ start i := by
    intro i
    induction i with
    | zero => exact Nat.le_refl _
    | succ i ih => exact Nat.le_trans ih (rise i)
  induction n with
  | zero => exact ⟨trivial, by simp⟩
  | succ n ih =>
    obtain ⟨h1, h2⟩ := ih (fun i hi => hf i (by omega)) fun i hi => hlt i (by omega)
    rw [List.range_succ, List.flatMap_append]
    simp only [List.flatMap_cons, List.flatMap_nil, List.append_nil]
    refine ⟨listed_append h1 (hf n (by omega)) h2 (mono n), fun x hx => ?_⟩
    rcases List.mem_append.1 hx with hx | hx
    · exact Nat.lt_of_lt_of_le (h2 x hx) (rise n)
    · exact hlt n (by omega) x hx

/-- The cells of one table of a bank rebuilt entry by entry. -/
def tableCells (f : Table → Nat → List Byte → List Byte) (b : Bank) (t : Table) : Bank :=
  (List.range t.entries).flatMap fun i =>
    if bankTouches b t i then cellsFrom (bankAddr t i 0) ((f t i (bankEntry b t i)).take t.entryBytes) else []

theorem bankMap_cells (f : Table → Nat → List Byte → List Byte) (b : Bank) :
    bankMap f b = bankedTables.flatMap (tableCells f b) :=
  rfl

theorem table_listed (f : Table → Nat → List Byte → List Byte) (b : Bank) (t : Table) {n m : Nat} (hn : t.base = n)
    (hm : t.base + t.entries * t.entryBytes = m) (ht : m ≤ bankBytes) :
    Listed n (tableCells f b t) ∧ ∀ x ∈ tableCells f b t, x.1 < m := by
  subst hn hm
  have h := flatMap_listed (fun i => t.base + i * t.entryBytes)
    (fun i => if bankTouches b t i then cellsFrom (bankAddr t i 0) ((f t i (bankEntry b t i)).take t.entryBytes) else [])
    t.entries (fun i => by rw [Nat.add_mul]; omega)
    (fun i hi => by
      split
      · have hm : i * t.entryBytes + t.entryBytes ≤ t.entries * t.entryBytes := by
          rw [← Nat.succ_mul]
          exact Nat.mul_le_mul_right _ hi
        have := List.length_take_le t.entryBytes (f t i (bankEntry b t i))
        exact cellsFrom_listed _ (by omega)
      · trivial)
    (fun i hi x hx => by
      split at hx
      · have h1 := cellsFrom_lt _ x hx
        have := List.length_take_le t.entryBytes (f t i (bankEntry b t i))
        unfold bankAddr at h1
        rw [Nat.add_mul]
        omega
      · simp at hx)
  simpa [tableCells] using h

/-- A bank rebuilt entry by entry is in canonical form, so the field clamp keeps it. -/
theorem bankMap_wf (f : Table → Nat → List Byte → List Byte) (b : Bank) : Memory.wf (bankMap f b) = true := by
  rw [memoryWf_iff, bankMap_cells]
  have z := table_listed f b .zone (n := 0) (m := 24) (by decide) (by decide) (by decide)
  have t := table_listed f b .topic (n := 24) (m := 2072) (by decide) (by decide) (by decide)
  have w := table_listed f b .watch (n := 2072) (m := 2264) (by decide) (by decide) (by decide)
  have p := table_listed f b .permit (n := 2264) (m := 2552) (by decide) (by decide) (by decide)
  have c := table_listed f b .channel (n := 2552) (m := 2744) (by decide) (by decide) (by decide)
  have g := table_listed f b .group (n := 2744) (m := 2792) (by decide) (by decide) (by decide)
  have s := table_listed f b .scene (n := 2792) (m := 5192) (by decide) (by decide) (by decide)
  have a := table_listed f b .axis (n := 5192) (m := 5288) (by decide) (by decide) (by decide)
  simp only [bankedTables, List.flatMap_cons, List.flatMap_nil, List.append_nil]
  generalize tableCells f b .zone = cz at *
  generalize tableCells f b .topic = ct at *
  generalize tableCells f b .watch = cw at *
  generalize tableCells f b .permit = cp at *
  generalize tableCells f b .channel = cc at *
  generalize tableCells f b .group = cg at *
  generalize tableCells f b .scene = cs at *
  generalize tableCells f b .axis = ca at *
  have r7 := listed_append s.1 a.1 s.2 (by decide)
  have r6 := listed_append g.1 r7 g.2 (by decide)
  have r5 := listed_append c.1 r6 c.2 (by decide)
  have r4 := listed_append p.1 r5 p.2 (by decide)
  have r3 := listed_append w.1 r4 w.2 (by decide)
  have r2 := listed_append t.1 r3 t.2 (by decide)
  exact listed_append z.1 r2 z.2 (by decide)

theorem clampBank_wf (b : Bank) : Memory.wf (clampBank b) = true := bankMap_wf _ b

end Sys2Proof.Machine
end

