-- ==== Sys2Proof/Laws/Take.lean ====
section
/-! SUPPORT. The taking of the head record, and the end of a taking. -/

namespace Sys2Proof.Machine

/-- The state as a taking finds it: the head record gone. -/
def State.afterTaking (s : State) (rest : List Request) : State :=
  { s with exe := { s.exe with intake := rest, takeDue := false } }

theorem afterTaking_changes (s : State) (rest : List Request) : Changes [.intake] s (s.afterTaking rest) := by
  intro p hp
  cases p <;> first | exact absurd (by decide) hp | rfl | exact ⟨rfl, rfl⟩

/-- The taking of a head record of the command's verb. -/
theorem take_of_head {s : State} {i : Instr} {r : Request} {rest : List Request} (h : s.Head r rest)
    (hi : takingOf r = i) (act : Request → State → State) : s.take i act = act r (s.afterTaking rest) := by
  simp only [State.take, h.intake]
  rw [if_pos ⟨h.running, hi⟩]
  rfl

/-- Without such a record there is no taking (log entry 5). -/
theorem take_of_other {s : State} {i : Instr} (h : ∀ r rest, s.exe.intake = r :: rest → takingOf r ≠ i)
    (act : Request → State → State) : s.take i act = s := by
  unfold State.take
  split
  · rfl
  · next r rest e => rw [if_neg fun k => h r rest e k.2]

theorem takeVerb_of_head {s : State} {i : Instr} {r : Request} {rest : List Request} (h : s.Head r rest)
    (hi : takingOf r = i) (act : Request → State → State × Result) :
    s.takeVerb i act = (act r (s.afterTaking rest)).1.conclude r (act r (s.afterTaking rest)).2 [] :=
  take_of_head h hi _

/-- The command a record's taking is, by its first payload byte. -/
theorem takingOf_cons {r : Request} {v : Byte} {l : List Byte} (h : r.payload = v :: l) :
    takingOf r = (verbOf r.kind v.toNat).getD .unknownVerb := by
  simp [takingOf, h]

/-- A taking keeps a quiet state quiet, for nothing that settles or publishes reads the intake queue. -/
theorem State.Quiet.afterTaking {s : State} (h : s.Quiet) (rest : List Request) : (s.afterTaking rest).Quiet where
  running := h.running
  noneStarting := h.noneStarting
  noWaiters := h.noWaiters
  noEval := h.noEval
  requests := h.requests
  held := fun r => by
    have := h.held r
    fin_cases r <;> exact this

theorem State.Calm.afterTaking {s : State} (h : s.Calm) (rest : List Request) : (s.afterTaking rest).Calm :=
  { h.toQuiet.afterTaking rest with noCommit := h.noCommit }

/-- A verb that leaves a calm state changes nothing but the intake queue and what its reply and publication may. -/
theorem conclude_of_calm {s t : State} {rest : List Request} (ht : t = s.afterTaking rest) (h : t.Calm) (r : Request)
    (res : Result) (d : List Byte) : Changes (.intake :: published) s (t.conclude r res d) := by
  have sub : ∀ p ∈ published, p ∈ Part.intake :: published := fun p q => List.mem_cons_of_mem _ q
  unfold State.conclude
  rw [h.finish]
  subst ht
  exact (((afterTaking_changes s rest).mono (by simp)).seq ((answer_published _ r res d).mono sub)).seq
    ((publish_changes _).mono sub)

/-- The reply and the publication at the end of a taking leave the intake queue. -/
theorem conclude_intake {t : State} (h : t.store.commitPending = false) (r : Request) (res : Result) (d : List Byte) :
    (t.conclude r res d).exe.intake = t.exe.intake :=
  (conclude_changes h r res d .intake (by decide)).1

end Sys2Proof.Machine
end

