-- ==== Sys2Proof/Tests/Slice0.lean ====
section
/-! SUPPORT. Tests of the model: the refusals of WellFormed, the manual's worked figures, one or two steps of each command
with results worked out by hand from the rules, and for each statement states that meet its hypotheses. -/

namespace Sys2Proof.Machine.Slice0

open Sys2Proof Sys2Proof.Machine

set_option Elab.async false

/-! ### A yard for the tests -/

/-- Bytes of an entry, at their offsets. -/
def cells (t : Table) (i : Nat) (l : List (Nat × Byte)) : Bank := l.map fun x => (bankAddr t i x.1, x.2)

/-- Limits of 300 A, base draw 1 A, the e-stop override at full level on group 5; slot 0 on topic 7 for 1000 ms; permit entry
0 gates P_UP on general input 2 being active; channel 0 in group 0 with 5 A at shed class 3; group 0 with a transition of
1 s; scene 0 with two items; the three axes fitted. -/
def tables : Bank :=
  cells .zone 0
    [(0, 11), (1, 184), (2, 11), (3, 184), (4, 11), (5, 184), (7, 10), (13, 2), (21, 5), (22, 3), (23, 232)] ++
  cells .watch 0 [(0, 128), (1, 7)] ++
  cells .permit 0 [(0, 129), (1, 2), (6, 1), (10, 4)] ++
  cells .channel 0 [(0, 1), (2, 50)] ++
  cells .group 0 [(1, 10)] ++
  cells .scene 0 [(1, 2), (3, 50), (5, 5), (6, 1), (7, 18), (8, 192)] ++
  cells .axis 0
    [(0, 128), (1, 50), (2, 18), (3, 192), (4, 200), (5, 1), (6, 244), (13, 56), (14, 73), (15, 97), (16, 44), (17, 31),
     (18, 65), (19, 44), (20, 1), (21, 134), (22, 160), (23, 7), (24, 208), (25, 1), (26, 244), (27, 18), (28, 193),
     (29, 144)] ++
  cells .axis 1
    [(0, 128), (1, 50), (2, 25), (3, 1), (4, 44), (5, 3), (6, 232), (7, 2), (8, 162), (9, 188), (13, 30), (14, 25), (16, 100),
     (18, 200)] ++
  cells .axis 2 [(0, 128), (2, 6), (3, 64), (4, 80), (18, 50)]

/-- What the seven publication records hold in the yard. -/
def records : Vector (List Byte) 7 :=
  #v[[3, 0, 1, 0, 0, 255], [0, 16, 0, 0, 0, 0, 0], [0, 64, 0], [0, 64, 0], [0, 0, 0, 0, 0, 0, 0, 0], [0, 0, 0, 0, 0, 0, 0, 0],
    [0, 0, 0, 0, 0, 0, 0, 0]]

/-- A running part with these tables, every motion permitted, and nothing under way. -/
def yard : State :=
  { State.reset with
    power := .running
    exe := { Executor.initial with pubs := Vector.ofFn fun r => { Executor.initial.pubs[r] with held := records[r] } }
    store := { State.reset.store with active := tables, shadow := tables }
    permits := { State.reset.permits with blocked := 0 } }

/-- The state with every consequence taken: it is calm unless an axis is STARTING. -/
def calmed (s : State) : State :=
  State.holdContents
    { s with
      power := .running
      store := { s.store with commitPending := false }
      budget := { s.budget with waiters := [], evalDue := false }
      requests := Vector.ofFn s.channelRequest }

theorem calmed_calm {s : State} (h : ∀ a, (s.axis a).phase ≠ .starting) : (calmed s).Calm := by
  refine ⟨⟨rfl, h, rfl, rfl, fun c => ?_, fun r => ?_⟩, rfl⟩
  · show (Vector.ofFn s.channelRequest)[c] = s.channelRequest c
    simp
  · simp only [calmed, State.holdContents, vmap_get]
    fin_cases r <;> rfl

/-- The yard with changes. -/
def at' (f : State → State) : State := f yard

/-- The yard with changes, calmed. -/
def calm (f : State → State) : State := calmed (f yard)

/-- The outcome is a next state with a property. -/
def nextSat (o : Host.Outcome State Fault Refusal) (p : State → Bool) : Bool :=
  match o with
  | .next t => p t
  | _ => false

/-- A record from node 9 at the trunk, on topic 5 in class 1. -/
def ask (k : Kind) (bytes : List Byte) : Request :=
  { port := .trunk, broadcast := false, cls := 1, kind := k, topic := 5, src := 9, payload := bytes }

/-- The record is the one of the intake queue. -/
def asked (k : Kind) (bytes : List Byte) (s : State) : State := s.setIntake [ask k bytes]

def withGroup (g : Fin 12) (f : LightGroup → LightGroup) (s : State) : State := { s with groups := vupdate s.groups g f }

def withWl (f : Windlass → Windlass) (s : State) : State := { s with wl := f s.wl }

def withInput (i : Fin 13) (v : Bool) (s : State) : State := s.takeInput i v

/-- An axis at work in a direction. -/
def working (a : Axis) (ph : AxisPhase) (m : Motion) (s : State) : State :=
  s.mapAxis a fun x => { x with phase := ph, dir := some m, admitted := true }

/-- The platform runs up with pump and valve. -/
def platformRuns (s : State) : State :=
  { (working .platform .running .pUp s).mapAxis .platform fun x => { x with target := some .up } with
    axes := { ((working .platform .running .pUp s).mapAxis .platform fun x => { x with target := some .up }).axes with
      pumpList := [.platform] }
    out := { s.out with platformUp := true, pump := true } }

/-- The windlass drives at a duty. -/
def windlassRuns (m : Motion) (mode : WindlassMode) (duty : Nat) (s : State) : State :=
  { withWl (fun w => { w with mode := mode, duty := duty, dutyTarget := duty, ramp := some 0, stall := some 0 })
      (working .windlass .running m s) with
    out := { s.out with bridge := { dir := some m, count := 0, high := 0 } } }

/-- The payloads of the replies that stand in the trunk's own queue. -/
def replies (s : State) : List (List Byte) :=
  s.trunk.own.filterMap fun e => if e.record.isNone then some e.frame.payload else none

/-- A COMMAND frame to node 0. -/
def frame : Frame := { cls := 1, kind := .command, topic := 5, src := 9, dst := some 0, payload := [3] }

/-- A STATE frame on topic 7. -/
def stateFrame : Frame := { cls := 2, kind := .state, topic := 7, src := 4, dst := none, payload := [1, 2] }

theorem test_yard_records : ∀ r : Fin 7, records[r] = yard.recordContent r := by decide +kernel

/-! ### Well-formed commands -/

theorem test_wf_longest : Instr.wf (.arrival .trunk (List.replicate 112 true)) = true := by decide +kernel

/-- A frame cannot have more bits (spec/12, 12.1). -/
theorem test_wf_refuses_longer : Instr.wf (.arrival .trunk (List.replicate 113 true)) = false := by decide +kernel

/-! ### The manual's figures -/

/-- spec/12, 12.1: a COMMAND with 2 payload bytes has 65 bits, a STATE frame with 8 has 107, start of frame included. -/
theorem test_frame_lengths :
    (Frame.lineBits { frame with payload := [1, 2] }).length + 1 = 65 ∧
      (Frame.lineBits { stateFrame with payload := [1, 2, 3, 4, 5, 6, 7, 8] }).length + 1 = 107 := by decide +kernel

/-- The check value that the register of R176 is known to give for the digits 1 to 9 as bytes. -/
theorem test_link_check :
    linkCheck ([0x31, 0x32, 0x33, 0x34, 0x35, 0x36, 0x37, 0x38, 0x39].flatMap (bitsOf 8)) = 0x29B1 := by decide +kernel

/-- spec/06, 6.2.1: the rising and the falling fade. -/
theorem test_fade_figures :
    [1, 2, 10, 29, 30].map (fun e => fadeLevel 0 735 e 30) = [24, 49, 245, 710, 735] ∧
      [1, 3, 19, 20].map (fun e => fadeLevel 900 250 e 20) = [868, 803, 283, 250] := by decide +kernel

/-- spec/07, 7.3.1: the five channels. -/
def figures : List Chan :=
  [⟨true, 40, 1000, 0, 0⟩, ⟨true, 120, 800, 200, 1⟩, ⟨true, 100, 1000, 300, 2⟩, ⟨true, 80, 750, 0, 3⟩, ⟨true, 90, 600, 100, 3⟩]

/-- spec/07, 7.3.1 and 7.6: request draw, floor draw, and the verdicts of the start and of steps 1, 2 and 4. -/
theorem test_shedding_figures :
    requestDraw figures = 350 ∧ floorDraw figures = 103 ∧
      [500, 620, 700, 400].map (verdict figures 800) =
        [⟨.shedding, 3, 132⟩, ⟨.shedding, 2, 18⟩, ⟨.overdrawn, 1, 0⟩, ⟨.normal, 0, 256⟩] := by decide +kernel

/-- spec/07, 7.3.1 and 7.6: the grants at the start, at step 1 and at step 2. -/
theorem test_grant_figures :
    figures.map (fun c => c.granted ⟨.shedding, 3, 132⟩) = [1000, 800, 1000, 386, 357] ∧
      figures.map (fun c => c.granted ⟨.shedding, 2, 18⟩) = [1000, 800, 349, 0, 100] ∧
      figures.map (fun c => c.granted ⟨.overdrawn, 1, 0⟩) = [1000, 200, 300, 0, 100] := by decide +kernel

/-! ### Power and the ports -/

/-- R175: the node straps 63 are taken as 62, and the rate straps are read. -/
theorem test_powerOn : nextSat (exec (.powerOn ⟨63, true, false⟩) yard) (fun t =>
    t.power == .loading && t.node == 62 && t.trunk.fast && !t.spur.fast && t.trunk.own == []) = true := by decide +kernel

/-- R87, R67, R17: without a marker STORE_EMPTY is raised; each port waits for 10 bit times; seven records are queued. -/
theorem test_startUpLoadEnd : nextSat (exec .startUpLoadEnd State.reset) (fun t =>
    t.power == .running && t.raised .storeEmpty && t.trunk.line == .release (some 400) && t.spur.line == .release (some 1600) &&
      t.trunk.own.length == 7) = true := by decide +kernel

theorem test_powerLoss : nextSat (exec .powerLoss (at' (asked .command [3]))) (fun t =>
    t.power == .off && t.exe.intake == []) = true := by decide +kernel

/-- R27, R52: an accepted COMMAND to the part joins the intake queue, and a frame with one bit changed does not (R3, R8). -/
theorem test_arrival_command :
    nextSat (exec (.arrival .trunk frame.lineBits) (at' fun s => s.mapPort .trunk fun x => { x with line := .receiving }))
      (fun t => t.exe.intake == [ask .command [3]] && t.trunk.score == 0) = true ∧
    nextSat (exec (.arrival .trunk (frame.lineBits.set 30 true))
        (at' fun s => s.mapPort .trunk fun x => { x with line := .receiving }))
      (fun t => t.exe.intake == [] && t.trunk.score == 1) = true := by decide +kernel

/-- R41, R42: a STATE frame on the topic of slot 0 is captured there. -/
theorem test_arrival_state : nextSat (exec (.arrival .spur stateFrame.lineBits)
    (at' fun s => s.mapPort .spur fun x => { x with line := .receiving })) (fun t =>
    t.watch[0] == { phase := .fresh, payload := [1, 2], lastSource := 4, age := 0, fresh := true, due := false } &&
      t.watch[1].phase == .empty && t.trunk.fwd == [stateFrame]) = true := by decide +kernel

/-- R4, R9: of the two heads the more urgent is sent, here the forwarded one. -/
theorem test_idleBus : nextSat (exec (.idleBus .trunk) (at' fun s => s.mapPort .trunk fun x =>
    ({ x with line := .idle, fwd := [frame] }).joinOwn none { frame with cls := 2 })) (fun t =>
    t.trunk.line == .sending false frame) = true := by decide +kernel

theorem test_startOfFrame : nextSat (exec (.startOfFrame .trunk) (at' fun s => s.mapPort .trunk fun x =>
    { x with line := .idle })) (fun t => t.trunk.line == .receiving) = true := by decide +kernel

/-- R17: a frame under way at the release, and one that begins before the gap, are not received: the port waits for the gap
after them, and its score stays. -/
theorem test_startOfFrame_at_release :
    nextSat (exec (.arrival .trunk frame.lineBits)
        (at' fun s => s.mapPort .trunk fun x => { x with line := .release none, score := 4 }))
      (fun t => t.exe.intake == [] && t.trunk.score == 4 && t.trunk.line == .release (some 400)) = true ∧
    nextSat (exec (.startOfFrame .trunk) (at' fun s => s.mapPort .trunk fun x => { x with line := .release (some 3) }))
      (fun t => t.trunk.line == .release none) = true ∧
    nextSat (exec .startUpLoadEnd (State.reset.setBusy .spur true))
      (fun t => t.trunk.line == .release (some 400) && t.spur.line == .release none) = true := by decide +kernel

/-- A trunk that sends the head of its forward queue at a score. -/
def sends (score : Nat) (s : State) : State :=
  s.mapPort .trunk fun x => { x with line := .sending false frame, fwd := [frame], score := score }

/-- R5: the frame stays queued. -/
theorem test_lostArbitration : nextSat (exec (.lostArbitration .trunk) (at' (sends 20))) (fun t =>
    t.trunk.fwd == [frame] && t.trunk.score == 20 && t.trunk.line == .receiving) = true := by decide +kernel

/-- R6, R8, R10: a transmit error adds 8, and 96 brings DEGRADED. -/
theorem test_transmitError : nextSat (exec (.transmitError .trunk) (at' (sends 88))) (fun t =>
    t.trunk.score == 96 && t.trunk.phase == .degraded && t.raised .trunkDegraded && t.trunk.fwd == [frame]) = true := by
  decide +kernel

/-- R7, R8: the frame leaves, and the score falls by 1. -/
theorem test_completion : nextSat (exec (.completion .trunk) (at' (sends 20))) (fun t =>
    t.trunk.fwd == [] && t.trunk.score == 19 && t.trunk.line == .gap 400) = true := by decide +kernel

/-! ### The executor -/

/-- R177: code 64 in a COMMAND is no verb. -/
theorem test_unknownVerb : nextSat (exec .unknownVerb (at' (asked .command [64]))) (fun t =>
    replies t == [[5, 64]] && t.exe.intake == []) = true := by decide +kernel

/-- R70: the flags are answered and cleared. -/
theorem test_readEvents : nextSat (exec .readEvents (at' fun s => asked .setup [71] (s.raise .forwardDrop))) (fun t =>
    replies t == [[0, 71, 4, 0]] && t.exe.events == 0) = true := by decide +kernel

/-- R68: record 3 is queued on the trunk, on topic 1000 + 3. -/
theorem test_publishNow : nextSat (exec .publishNow (at' (asked .setup [72, 3]))) (fun t =>
    replies t == [[0, 72]] && t.trunk.own.any fun e => e.record == some 3 && e.frame.topic == 1003) = true := by
  decide +kernel

theorem test_spacingExpiry : nextSat (exec (.spacingExpiry 2) (at' fun s => { s with
    exe := { s.exe with pubs := vupdate s.exe.pubs 2 fun x => { x with spacing := some 0, dueTrunk := true } } })) (fun t =>
    t.trunk.holdsRecord 2 && !t.exe.pubs[2].dueTrunk) = true := by decide +kernel

theorem test_refreshExpiry : nextSat (exec .refreshExpiry (at' fun s => { s with
    exe := { s.exe with refresh := some 0 } })) (fun t =>
    t.trunk.own.length == 7 && t.spur.own == [] && t.exe.refresh == some 2000) = true := by decide +kernel

theorem test_slotExpiry : nextSat (exec (.slotExpiry 0) (at' fun s => { s with
    watch := vupdate s.watch 0 fun x => { x with phase := .fresh, age := 999 } })) (fun t =>
    t.watch[0].phase == .stale && t.watch[0].age == 1000) = true := by decide +kernel

/-! ### Lighting -/

/-- R99: item 0 sets group 0 to 800 over its fade of 500 ms, item 1 sets group 1 to 300 at once; locked groups are skipped. -/
theorem test_scene :
    nextSat (exec .scene (at' (asked .command [1, 0]))) (fun t =>
      replies t == [[0, 1]] && t.groups[0].baseTarget == 800 && t.groups[0].base == 0 && t.groups[1].out == 300) = true ∧
    nextSat (exec .scene (at' fun s => asked .command [1, 0] (withGroup 1 (fun g =>
      { g with mode := .governed, stack := [⟨3, 2, 500, true⟩] }) s))) (fun t =>
      replies t == [[12, 1]] && t.groups[1].baseTarget == 0) = true := by decide +kernel

/-- R97, R62: the level 1500 is clamped; the fade 0 sets it at once. -/
theorem test_groupSet : nextSat (exec .groupSet (at' (asked .command [2, 3, 5, 220, 0, 0]))) (fun t =>
    replies t == [[0, 2]] && t.groups[3].base == 1000 && t.groups[3].out == 1000) = true := by decide +kernel

theorem test_allOff : nextSat (exec .allOff (at' fun s => asked .command [3] (withGroup 4 (fun _ =>
    LightGroup.initial 600) s))) (fun t => replies t == [[0, 3]] && t.groups[4].out == 0) = true := by decide +kernel

/-- R102, R103: a fifth push of higher priority evicts the lowest entry. -/
theorem test_ovrPush : nextSat (exec .ovrPush (at' fun s => asked .command [4, 2, 9, 6, 1, 44, 0] (withGroup 2 (fun g =>
    { g with mode := .governed, stack := [⟨1, 5, 10, false⟩, ⟨2, 4, 20, false⟩, ⟨3, 4, 30, false⟩, ⟨4, 1, 40, false⟩] }) s)))
    (fun t => replies t == [[0, 4]] && t.raised .overrideEvicted && t.groups[2].out == 300 &&
      t.groups[2].stack.map Override.source == [9, 1, 2, 3]) = true := by decide +kernel

/-- R104, R96: the last entry gone, the output returns to the base target over 1 s. -/
theorem test_ovrRelease : nextSat (exec .ovrRelease (at' fun s => asked .command [5, 0, 3] (withGroup 0 (fun g =>
    { g with mode := .governed, out := 500, stack := [⟨3, 2, 500, true⟩] }) s))) (fun t =>
    t.groups[0].stack == [] && t.groups[0].mode == .returning && t.groups[0].out == 500 &&
      t.groups[0].outFade == some ⟨500, 0, 100, 10⟩) = true := by decide +kernel

/-- spec/06, 6.2.1: the third step of the falling fade. -/
theorem test_fadeStep : nextSat (exec (.fadeStep 1 .base) (at' (withGroup 1 fun g =>
    { g with base := 836, baseTarget := 250, baseFade := some ⟨900, 2, 20, 0⟩, out := 836, outTarget := 250 }))) (fun t =>
    t.groups[1].base == 803 && t.groups[1].out == 803) = true := by decide +kernel

/-! ### Motion -/

/-- R140, R142, R150: UP runs the platform at once, its valve open, the pump to follow 100 ms later; group 2 takes 700. -/
theorem test_pfMove : nextSat (exec .pfMove (at' (asked .command [16, 0]))) (fun t =>
    replies t == [[1, 16]] && (t.axis .platform).phase == .running && t.out.platformUp && !t.out.pump &&
      (t.axis .platform).lead == some 100 && t.budget.res.platform == .start 400 && t.groups[2].outTarget == 700) = true := by
  decide +kernel

/-- R138: DECK from a place BETWEEN resolves to no direction. -/
theorem test_pfMove_deck : nextSat (exec .pfMove (at' fun s => asked .command [16, 1] (s.mapAxis .platform fun x =>
    { x with pos := .between }))) (fun t => replies t == [[11, 16]] && (t.axis .platform).phase == .idle) = true := by
  decide +kernel

/-- R120, R142: a start time of 0 takes the running reservation at once. -/
theorem test_htMove : nextSat (exec .htMove (at' (asked .command [17, 0]))) (fun t =>
    replies t == [[1, 17]] && t.out.hatchOpen && t.out.pump && t.budget.res.hatch == .run 80) = true := by decide +kernel

/-- R119, R120: with the limit 120, 10 A of base draw, 15 of request draw and S = 100 the admission sheds, and the switch to
Rr = 80 at the same event brings NORMAL back: the ZONE record is queued, with the content that it had. -/
theorem test_htMove_two_evaluations :
    let bank := cells .zone 0 [(1, 120), (3, 120), (5, 120), (7, 10)] ++ cells .channel 0 [(0, 1), (2, 50)] ++ tables.drop 10
    let s := calm fun s => asked .command [17, 0] (withGroup 0 (fun g => { g with out := 300 })
      { s with store := { s.store with active := bank } })
    nextSat (exec .htMove s) (fun t => replies t == [[1, 17]] && t.budget.res.hatch == .run 80 &&
      t.budget.phase == .normal && t.trunk.holdsRecord 0 && t.exe.pubs[0].held == s.exe.pubs[0].held &&
      t.exe.pubs[0].spacing == some 100 && !t.trunk.holdsRecord 4) = true := by decide +kernel

/-- R160: a haul whose counter is not referenced takes the slow duty. -/
theorem test_wlHaul : nextSat (exec .wlHaul (at' (asked .command [8]))) (fun t =>
    replies t == [[1, 8]] && (t.axis .windlass).phase == .running && t.wl.dutyTarget == 300 && t.wl.duty == 0 &&
      t.wl.keepAlive == some 300 && t.budget.res.windlass == .start 300) = true := by decide +kernel

/-- R138: a permit that is FALSE refuses the start. -/
theorem test_wlPayout : nextSat (exec .wlPayout (at' fun s => asked .command [9]
    { s with permits := { s.permits with blocked := 2 } })) (fun t =>
    replies t == [[7, 9]] && (t.axis .windlass).phase == .idle) = true := by decide +kernel

/-- R160: a referenced haul outside the slow zone takes the haul duty. -/
theorem test_wlHome : nextSat (exec .wlHome (at' fun s => asked .command [10] (withWl (fun w =>
    { w with counter := 2001, referenced := true }) s))) (fun t =>
    t.wl.mode == .haulHome && t.wl.dutyTarget == 900 && t.wl.keepAlive == none) = true := by decide +kernel

theorem test_wlTo : nextSat (exec .wlTo (at' (asked .command [11, 0, 39, 16]))) (fun t =>
    t.wl.mode == .payoutTo && t.wl.payTarget == 10000 && t.wl.dutyTarget == 600) = true := by decide +kernel

/-- R158, R178: the value is clamped to the rode length, 100 m. -/
theorem test_chainSet : nextSat (exec .chainSet (at' (asked .command [12, 255, 0, 0]))) (fun t =>
    t.wl.counter == 100000 && t.wl.referenced) = true := by decide +kernel

theorem test_axisStop : nextSat (exec .axisStop (at' fun s => asked .command [24, 1] (platformRuns s))) (fun t =>
    replies t == [[0, 24]] && (t.axis .platform).phase == .stopping && (t.axis .platform).lag == some 200 &&
      t.out.platformUp && !t.out.pump) = true := by decide +kernel

theorem test_allStop : nextSat (exec .allStop (at' fun s => asked .command [25]
    (windlassRuns .wHaul .manualHaul 500 s))) (fun t =>
    (t.axis .windlass).phase == .stopping && t.wl.dutyTarget == 0 && t.wl.duty == 500 && t.out.bridge.dir == some .wHaul) = true := by
  decide +kernel

/-- A faulted platform. -/
def faulted (c : Cause) (s : State) : State :=
  s.mapAxis .platform fun x => { x with phase := .faulted, cause := c, last := .fault }

theorem test_clearFault : nextSat (exec .clearFault (at' fun s => asked .command [26, 1] (faulted .timeout s))) (fun t =>
    replies t == [[0, 26]] && (t.axis .platform).phase == .idle && (t.axis .platform).last == .fault) = true := by
  decide +kernel

/-- R154: the latch falls only once the input is inactive. -/
theorem test_clearEstop :
    nextSat (exec .clearEstop (at' fun s => asked .command [27] { s with axes := { s.axes with latch := true } })) (fun t =>
      replies t == [[0, 27]] && !t.axes.latch) = true ∧
    nextSat (exec .clearEstop (at' fun s => asked .command [27] { s with
      axes := { s.axes with latch := true }, inp := { s.inp with estopActive := true } })) (fun t =>
      replies t == [[10, 27]] && t.axes.latch) = true := by decide +kernel

/-! ### Tables -/

def cursorAt (t : Table) (i : Nat) (m : StepMode) (s : State) : State :=
  { s with exe := { s.exe with cursor := ⟨t, i, m⟩ } }

/-- spec/05, 5.11, step 6: the assembly is abandoned. -/
theorem test_cursor : nextSat (exec .cursor (at' fun s => asked .setup [64, 5, 0, 0, 1] { cursorAt .group 5 .inc s with
    exe := { (cursorAt .group 5 .inc s).exe with assembly := [1, 2, 3] } })) (fun t =>
    t.exe.cursor == ⟨.group, 0, .dec⟩ && t.exe.assembly == [] && t.raised .writeAbandoned) = true := by decide +kernel

/-- spec/05, 5.11, step 2: entry 3 is completed, and two bytes begin entry 4. -/
theorem test_write : nextSat (exec .write (at' fun s => asked .setup [65, 0, 1, 2, 3, 4, 5] (cursorAt .group 3 .inc s)))
    (fun t => replies t == [[0, 65, 0, 4, 2]] && t.exe.assembly == [4, 5] && t.exe.cursor.index == 4 &&
      bankEntry t.store.shadow .group 3 == [0, 1, 2, 3] && t.store.active == tables) = true := by decide +kernel

/-- spec/05, 5.11, step 8: the one chunk of a group entry steps the cursor by DEC. -/
theorem test_read : nextSat (exec .read (at' fun s => asked .setup [66, 0] (cursorAt .group 0 .dec s))) (fun t =>
    replies t == [[0, 66, 0, 10, 0, 0]] && t.exe.cursor.index == 11 && t.exe.readOffset == 0) = true := by decide +kernel

/-- R81, R82: a power-up level of 2000 comes into the active bank as 1000. -/
theorem test_commit : nextSat (exec .commit (at' fun s => asked .setup [67]
    { s with store := { s.store with shadow := cells .group 1 [(2, 7), (3, 208)] } })) (fun t =>
    replies t == [[0, 67]] && bankEntry t.store.active .group 1 == [0, 0, 3, 232] &&
      bankEntry t.store.shadow .group 1 == [0, 0, 7, 208]) = true := by decide +kernel

theorem test_discard : nextSat (exec .discard (at' fun s => asked .setup [68]
    { s with store := { s.store with shadow := [] } })) (fun t =>
    replies t == [[0, 68]] && t.store.shadow == tables) = true := by decide +kernel

theorem test_save : nextSat (exec .save (at' (asked .setup [69]))) (fun t =>
    replies t == [] && t.exe.saveCtx == some (ask .setup [69]) && !t.store.marker && t.store.image == tables) = true := by
  decide +kernel

theorem test_saveCompletion : nextSat (exec .saveCompletion (at' fun s => { s with
    exe := { s.exe with saveCtx := some (ask .setup [69]) } })) (fun t =>
    replies t == [[2, 69]] && t.store.marker && t.exe.saveCtx == none) = true := by decide +kernel

/-- R89: the reply to RESET stands in the fresh own queue beside the seven records. -/
theorem test_reset : nextSat (exec .reset (at' fun s => asked .setup [70] (platformRuns s))) (fun t =>
    replies t == [[0, 70]] && t.trunk.own.length == 8 && (t.axis .platform).phase == .idle && !t.out.pump &&
      t.store.active == tables) = true := by decide +kernel

/-! ### Timers -/

theorem test_startWindowExpiry : nextSat (exec (.startWindowExpiry .platform) (working .platform .starting .pUp
    (yard.mapAxis .platform fun x => { x with window := some 0 }))) (fun t =>
    (t.axis .platform).phase == .idle && (t.axis .platform).last == .noPump) = true := by decide +kernel

theorem test_startTimeExpiry : nextSat (exec (.startTimeExpiry .platform) (at' fun s =>
    (platformRuns s).mapAxis .platform fun x => { x with startTime := some 0 })) (fun t =>
    t.budget.res.platform == .run 300 && (t.axis .platform).startTime == none) = true := by decide +kernel

theorem test_valveLeadExpiry : nextSat (exec (.valveLeadExpiry .platform) (at' fun s =>
    { (platformRuns s).mapAxis .platform fun x => { x with lead := some 0 } with
      out := { s.out with platformUp := true } })) (fun t => t.out.pump && t.out.platformUp) = true := by decide +kernel

theorem test_valveLagExpiry : nextSat (exec (.valveLagExpiry .platform) (at' fun s =>
    (platformRuns s).mapAxis .platform fun x => { x with phase := .stopping, lag := some 0, last := .reached })) (fun t =>
    (t.axis .platform).phase == .idle && (t.axis .platform).last == .reached && !t.out.platformUp &&
      t.axes.pumpList == []) = true := by decide +kernel

theorem test_travelTimeoutExpiry : nextSat (exec (.travelTimeoutExpiry .platform) (at' fun s =>
    (platformRuns s).mapAxis .platform fun x => { x with travel := some 0 })) (fun t =>
    (t.axis .platform).phase == .faulted && (t.axis .platform).cause == .timeout && t.raised .faultP &&
      !t.out.pump && !t.out.platformUp) = true := by decide +kernel

theorem test_keepAliveExpiry : nextSat (exec .keepAliveExpiry (at' fun s => withWl (fun w => { w with keepAlive := some 0 })
    (windlassRuns .wPayout .manualPayout 600 s))) (fun t =>
    (t.axis .windlass).phase == .stopping && (t.axis .windlass).last == .keepAlive) = true := by decide +kernel

theorem test_stallExpiry :
    nextSat (exec .stallExpiry (at' (windlassRuns .wHaul .manualHaul 1))) (fun t =>
      (t.axis .windlass).phase == .faulted && (t.axis .windlass).cause == .stall && t.out.bridge.dir == none) = true ∧
    nextSat (exec .stallExpiry (at' (windlassRuns .wHaul .manualHaul 0))) (fun t =>
      (t.axis .windlass).phase == .running && t.wl.stall == some 500) = true := by decide +kernel

theorem test_reversalPauseExpiry : nextSat (exec .reversalPauseExpiry (working .windlass .starting .wPayout
    (withWl (fun w => { w with mode := .manualPayout, lastDir := some .wHaul, pause := some 0 }) yard))) (fun t =>
    (t.axis .windlass).phase == .running && t.wl.pause == none && t.wl.dutyTarget == 600) = true := by decide +kernel

/-- R160: a ramp time of 1000 ms gives steps of 10. -/
theorem test_rampStep : nextSat (exec .rampStep (at' fun s => withWl (fun w => { w with dutyTarget := 900 })
    (windlassRuns .wHaul .manualHaul 300 s))) (fun t => t.wl.duty == 310) = true := by decide +kernel

/-- R170: at 4 kHz a cycle has 2500 counts, and half the duty is 1250 of them. -/
theorem test_bridgeCycleStart : nextSat (exec .bridgeCycleStart (at' (windlassRuns .wHaul .manualHaul 500))) (fun t =>
    t.out.bridge == { dir := some .wHaul, count := 0, high := 1250 }) = true := by decide +kernel

theorem test_periodStart : nextSat (exec (.periodStart 1) (at' fun s => { s with
    out := { s.out with buffers := Vector.replicate 24 77 } })) (fun t =>
    t.out.loaded[8] == 77 && t.out.loaded[15] == 77 && t.out.loaded[7] == 0 && t.out.loaded[16] == 0) = true := by
  decide +kernel

/-- R167: the last count of a period of 1000 leaves the counter there, with the start of the next period due. -/
theorem test_period_counts :
    (PwmBank.tick { counter := 998, due := false, period := 1000 }, PwmBank.tick { counter := 999, due := false, period := 1000 }) =
      ({ counter := 999, due := false, period := 1000 }, { counter := 999, due := true, period := 1000 }) := by
  decide +kernel

/-! ### Local inputs -/

/-- R149, R150: the sensor of the target ends the run; the pump stops, and the valve follows after the lag. -/
theorem test_sensorChange : nextSat (exec (.sensorChange (.platform true false false)) (at' platformRuns)) (fun t =>
    (t.axis .platform).phase == .stopping && (t.axis .platform).last == .reached && (t.axis .platform).pos == .up &&
      !t.out.pump && t.out.platformUp) = true := by decide +kernel

/-- R173: the change of one sensor leaves the count of another, whose sample differs from its level, going on. -/
theorem test_sensorChange_counts : nextSat (exec (.sensorChange (.platform true false false)) (at' fun s => { s with
    inp := { s.inp with debounced := vupdate s.inp.debounced 1 fun _ => { pinHigh := false, active := false, count := 7 } } }))
    (fun t => t.input 0 && !t.input 1 && t.inp.debounced[1] == { pinHigh := false, active := false, count := 7 }) = true := by
  decide +kernel

theorem test_homeInputChange : nextSat (exec (.homeInputChange true) (at' fun s =>
    withWl (fun w => { w with counter := 900 }) (windlassRuns .wHaul .haulHome 300 s))) (fun t =>
    t.wl.counter == 0 && t.wl.referenced && (t.axis .windlass).phase == .idle && t.out.bridge.dir == none) = true := by
  decide +kernel

/-- R157: a pocket of 300 mm comes off while hauling, and goes on otherwise. -/
theorem test_gypsyPulse :
    nextSat (exec .gypsyPulse (at' fun s => withWl (fun w => { w with counter := 200 })
      (windlassRuns .wHaul .manualHaul 300 s))) (fun t => t.wl.counter == 0) = true ∧
    nextSat (exec .gypsyPulse (at' (withWl fun w => { w with counter := 200 }))) (fun t => t.wl.counter == 500) = true := by
  decide +kernel

theorem test_footPress : nextSat (exec (.footPress .up) (at' id)) (fun t =>
    t.wl.mode == .footHaul && (t.axis .windlass).phase == .running && t.wl.keepAlive == none) = true := by decide +kernel

theorem test_footRelease : nextSat (exec (.footRelease .down) (at' fun s => withInput 8 true
    (windlassRuns .wPayout .footPayout 600 s))) (fun t =>
    (t.axis .windlass).phase == .stopping && (t.axis .windlass).last == .released) = true := by decide +kernel

/-- R130, R132: entry 0 holds P_UP while general input 2 is inactive. -/
theorem test_generalInputChange :
    nextSat (exec (.generalInputChange 2 true) (at' fun s => { s with permits := { s.permits with
      blocked := 4, results := vupdate s.permits.results 0 fun _ => false } })) (fun t => t.permits.blocked == 0) = true ∧
    nextSat (exec (.generalInputChange 2 false) (at' (withInput 11 true))) (fun t => t.permits.blocked == 4) = true := by
  decide +kernel

theorem test_estopActivation : nextSat (exec .estopActivation (at' platformRuns)) (fun t =>
    t.axes.latch && (t.axis .platform).phase == .idle && (t.axis .platform).last == .estop && !t.out.pump &&
      !t.out.platformUp && t.raised .estop && t.groups[5].outTarget == 1000) = true := by decide +kernel

theorem test_estopFall : nextSat (exec .estopFall (at' fun s => { s with
    axes := { s.axes with latch := true }, inp := { s.inp with estopActive := true } })) (fun t =>
    t.axes.latch && !t.inp.estopActive) = true := by decide +kernel

theorem test_overcurrentChange : nextSat (exec (.overcurrentChange true) (at' (windlassRuns .wHaul .manualHaul 500))) (fun t =>
    (t.axis .windlass).phase == .faulted && (t.axis .windlass).cause == .overcurrent && t.out.bridge.dir == none) = true := by
  decide +kernel

/-! ### States that meet the hypotheses of the statements -/

/-- No axis of the state is STARTING. -/
def settled (s : State) : Bool :=
  s.axes.ax.windlass.phase != .starting && s.axes.ax.platform.phase != .starting && s.axes.ax.hatch.phase != .starting

theorem calm_of (f : State → State) (h : settled (f yard) = true) : (calm f).Calm := by
  simp only [settled, Bool.and_eq_true, bne_iff_ne] at h
  exact calmed_calm fun a => match a with
    | .windlass => h.1.1
    | .platform => h.1.2
    | .hatch => h.2

/-- The calm state with a commit pending. -/
def waiting (f : State → State) : State := { calm f with store := { (calm f).store with commitPending := true } }

theorem waiting_quiet {f : State → State} (h : (calm f).Calm) : (waiting f).Quiet :=
  ⟨rfl, h.noneStarting, rfl, rfl, h.requests, fun r => by
    have := h.held r
    fin_cases r <;> exact this⟩

/-- The state with every consequence taken but a pending commit and the waits of STARTING axes. -/
def stilled (pend : Bool) (s : State) : State :=
  State.holdContents
    { s with
      power := .running
      store := { s.store with commitPending := pend }
      budget := { s.budget with evalDue := false }
      requests := Vector.ofFn s.channelRequest }

/-- The yard with changes, stilled. -/
def still (pend : Bool) (f : State → State) : State := stilled pend (f yard)

/-- No axis is admitted, and a commit is pending only while one of them is outside IDLE. -/
theorem still_of {pend : Bool} {f : State → State} (h : ∀ a, ((f yard).axis a).admitted = false)
    (k : pend = true → ∃ a, ((f yard).axis a).phase ≠ .idle) : (still pend f).Still := by
  refine ⟨rfl, fun a _ r => absurd (r.1.symm.trans (h a)) (by decide), rfl, fun c => ?_, fun r => ?_, k⟩
  · show (Vector.ofFn (f yard).channelRequest)[c] = (f yard).channelRequest c
    simp
  · simp only [still, stilled, State.holdContents, vmap_get]
    fin_cases r <;> rfl

theorem witness_StepRunsTheFrontCommand :
    ({ State.reset with power := .off } : State).pending = [] ∧ ({ State.reset with power := .off } : State).power = .off :=
  ⟨rfl, rfl⟩

/-- With and without the marker. -/
theorem witness_StartUpLoadEnds (m : Bool) :
    State.Loading { State.reset with store := { State.reset.store with image := tables, marker := m } } :=
  ⟨rfl, rfl, rfl, fun n => by simp [State.reset], rfl, rfl, rfl, rfl, rfl, rfl, rfl⟩

/-- A part in its load; a record that another command takes; a port that waits for its gap, or for the end of a frame. -/
theorem witness_NothingHappensWithoutItsEvent (left : Option Nat) :
    let s := fun left => at' fun s => s.mapPort .spur fun x => { x with line := .release left }
    State.reset.power ≠ .running ∧ Instr.scene ∈ takings ∧
      (∀ r rest, (at' (asked .command [3])).exe.intake = r :: rest → takingOf r ≠ .scene) ∧
      (s left).power = .running ∧ ((s left).port .spur).line = .release left ∧ (s left).pending = [] ∧
      (s none).due = [] ∧ (s (some 3)).due = [] := by
  refine ⟨by decide, by decide, fun r rest h => ?_, rfl, rfl, rfl, by decide +kernel, by decide +kernel⟩
  have h : [ask .command [3]] = r :: rest := h
  rw [← (List.cons.inj h).1]
  decide

theorem witness_FramesReadBack :
    stateFrame.wf = true ∧ Frame.wf { frame with cls := 3, topic := 1023, dst := some 63, payload := List.replicate 8 255 } = true := by
  decide

/-- A port of the calm yard that receives, in a state, at a score and a run count. -/
def hears (p : Port) (ph : PortPhase) (n run : Nat) (s : State) : State :=
  s.mapPort p fun x => { x with line := .receiving, phase := ph, score := n, run := run }

theorem receive_frame : receive frame.lineBits = some frame := by decide +kernel

theorem receive_stateFrame : receive stateFrame.lineBits = some stateFrame := by decide +kernel

/-- Any line, an idle one and one that waits for a gap among them; an isolated port, and one with empty queues; heads whose keys differ, and equal ones. -/
theorem witness_LowerKeyIsSentFirst (line : Line) (ph : PortPhase) (fwd : List Frame) (own : List OwnEntry) :
    let s := at' fun s => s.mapPort .spur fun x => { x with line := line, phase := ph, fwd := fwd, own := own }
    s.power = .running ∧ (s.port .spur).line = line ∧ (s.port .spur).phase = ph ∧ (s.port .spur).fwd = fwd ∧
      (s.port .spur).own = own ∧ frame.key < stateFrame.key := by
  exact ⟨rfl, rfl, rfl, rfl, rfl, by decide⟩

/-- Any state and any score, 94 and 95, 199 and 200 among them. -/
theorem witness_BadFrameIsAReceiveError (p : Port) (ph : PortPhase) (n run : Nat) :
    let s := calm (hears p ph n run)
    s.Calm ∧ (s.port p).line.receives = true ∧ receive [] = none ∧ (s.port p).phase = ph ∧ (s.port p).score = n := by
  cases p <;> exact ⟨calm_of _ rfl, rfl, by decide +kernel, rfl, rfl⟩

/-- Any score and any run count, 80 and 96, 62 and 63 among them. -/
theorem witness_GoodFrameMendsThePort (p : Port) (ph : PortPhase) (n run : Nat) :
    let s := at' (hears p ph n run)
    s.power = .running ∧ s.store.commitPending = false ∧ (s.port p).line.receives = true ∧
      receive frame.lineBits = some frame ∧ (s.port p).phase = ph ∧ (s.port p).score = n ∧ (s.port p).run = run := by
  cases p <;> exact ⟨rfl, rfl, rfl, receive_frame, rfl, rfl, rfl⟩

/-- The 64th good frame at an ISOLATED port whose own queue is empty: the trunk, which is a destination. -/
theorem witness_GoodFrameMendsThePort_return :
    let s := calm (hears .trunk .isolated 200 63)
    s.power = .running ∧ s.store.commitPending = false ∧ (s.port .trunk).line.receives = true ∧ s.Calm ∧
      (s.port .trunk).phase = .isolated ∧ 63 ≤ (s.port .trunk).run ∧ (s.port .trunk).own = [] ∧
      s.destination .trunk = true :=
  ⟨rfl, rfl, rfl, calm_of _ rfl, rfl, le_refl 63, rfl, rfl⟩

/-- Slot 0 matches the frame and slot 1 does not. -/
theorem witness_StateFrameIsCaptured :
    let s := at' (hears .spur .active 0 0)
    s.power = .running ∧ s.store.commitPending = false ∧ (s.port .spur).line.receives = true ∧
      receive stateFrame.lineBits = some stateFrame ∧ stateFrame.kind = .state ∧
      s.watchField 0 WatchTable.enabled ≠ 0 ∧ s.watchField 0 WatchTable.topic = stateFrame.topic.toNat ∧
      s.watchField 0 WatchTable.filter = 255 ∧ stateFrame.src ≠ 63 ∧ s.watchField 1 WatchTable.enabled = 0 := by
  refine ⟨rfl, rfl, rfl, receive_stateFrame, rfl, ?_⟩
  decide +kernel

/-- The tables with slot 0 as the source slot and permit entry 1 on slot 0, entry 2 on slot 31. -/
def noticed (s : State) : State :=
  { s with store := { s.store with
      active := cells .zone 0 [(8, 0), (9, 1)] ++ cells .watch 0 [(0, 128), (1, 7)] ++
        cells .permit 0 [(12, 128), (24, 128), (25, 31)] } }

/-- Slot 0, captured or expired, is the subject of entry 1 and the source slot; no other slot has entry 1, entry 2 has
slot 31, and no WATCH entry has slot 5. -/
theorem witness_StateFrameIsCaptured_notice :
    let s := at' fun s => noticed (hears .spur .active 0 0 s)
    s.power = .running ∧ s.store.commitPending = false ∧ (s.port .spur).line.receives = true ∧
      s.watchField 0 WatchTable.enabled ≠ 0 ∧ s.watchField 0 WatchTable.topic = stateFrame.topic.toNat ∧
      s.watchField 0 WatchTable.filter = 255 ∧ s.permitField 1 PermitTable.kind = 0 ∧
      s.permitField 1 PermitTable.subject = (0 : Fin 32).val ∧ s.permitField 1 PermitTable.enabled ≠ 0 ∧
      s.permitField 2 PermitTable.kind = 0 ∧ s.permitField 2 PermitTable.subject = (31 : Fin 32).val ∧
      s.sourceSlot = some 0 := by
  decide +kernel

/-- A SETUP frame to node 0, and a broadcast COMMAND. -/
def setupFrame : Frame := { frame with kind := .setup, payload := [71] }

def allFrame : Frame := { frame with dst := some 63 }

/-- Records of class 1 in the intake queue. -/
def queued (n : Nat) (s : State) : State := s.setIntake (List.replicate n (ask .command [3]))

/-- An addressed COMMAND, an addressed SETUP from the trunk, a broadcast COMMAND; seven records stand queued. -/
theorem witness_RequestIsDelivered :
    let s := calm fun s => queued 7 (hears .trunk .active 0 0 s)
    s.Calm ∧ (s.port .trunk).line.receives = true ∧ receive frame.lineBits = some frame ∧
      receive setupFrame.lineBits = some setupFrame ∧ receive allFrame.lineBits = some allFrame ∧
      frame.dst = some s.node ∧ allFrame.dst = some 63 ∧ s.node ≠ 63 ∧
      acceptCovers (s.topicField frame.topic TopicTable.accept) .trunk = true ∧ setupFrame.kind = .setup ∧
      s.exe.intake.length < 8 ∧ SortedBy Request.key s.exe.intake := by
  refine ⟨calm_of _ rfl, rfl, receive_frame, by decide +kernel, by decide +kernel, rfl, rfl,
    by decide, by decide +kernel, rfl, by decide, ?_⟩
  unfold SortedBy
  decide +kernel

/-- A full queue with a tail of class 1, so that a frame of class 0 evicts it and one of class 1 does not; a COMMAND from
the spur, which topic 5 does not accept, and a SETUP from there. -/
theorem witness_RefusedRequestIsAnswered :
    let s := calm fun s => queued 8 (hears .trunk .active 0 0 s)
    let u := calm (hears .spur .active 0 0)
    let urgent : Frame := { frame with cls := 0 }
    s.Calm ∧ (s.port .trunk).line.receives = true ∧ receive frame.lineBits = some frame ∧
      receive urgent.lineBits = some urgent ∧ frame.dst = some s.node ∧ (s.port .trunk).phase = .active ∧
      acceptCovers (s.topicField frame.topic TopicTable.accept) .trunk = true ∧
      s.exe.intake = List.replicate 7 (ask .command [3]) ++ [ask .command [3]] ∧ SortedBy Request.key s.exe.intake ∧
      u.Calm ∧ (u.port .spur).line.receives = true ∧
      acceptCovers (u.topicField frame.topic TopicTable.accept) .spur = false ∧
      receive setupFrame.lineBits = some setupFrame := by
  refine ⟨calm_of _ rfl, rfl, receive_frame, by decide +kernel, rfl, rfl, by decide +kernel,
    rfl, ?_, calm_of _ rfl, rfl, by decide +kernel, by decide +kernel⟩
  unfold SortedBy
  decide +kernel

/-- The yard with topic 6 not to be forwarded. -/
def crossed : State := at' fun s => { s with store := { s.store with active := cells .topic 6 [(0, 0)] } }

/-- To node 9 on topic 5, which the direction fields let pass, and on topic 6, which they do not; the other port in any
state, with any queue. -/
theorem witness_PassingFrameIsForwarded (p : Port) (ph : PortPhase) (fwd : List Frame) :
    let s := calm fun s => hears p .active 0 0
      { s.mapPort (otherPort p) fun x => { x with phase := ph, fwd := fwd } with
        store := { s.store with active := cells .topic 6 [(0, 0)] } }
    let f : Frame := { frame with dst := some 9 }
    s.Calm ∧ (s.port p).line.receives = true ∧ receive f.lineBits = some f ∧ f.kind ≠ .state ∧ f.dst = some 9 ∧
      (9 : Node) ≠ s.node ∧ (9 : Node) ≠ 63 ∧ (s.port (otherPort p)).phase = ph ∧ (s.port (otherPort p)).fwd = fwd ∧
      s.topicField 5 TopicTable.down ≠ 0 ∧ s.topicField 5 TopicTable.up ≠ 0 ∧ s.topicField 6 TopicTable.down = 0 ∧
      s.topicField 6 TopicTable.up = 0 := by
  have down : crossed.topicField 5 TopicTable.down ≠ 0 := by decide +kernel
  have up : crossed.topicField 5 TopicTable.up ≠ 0 := by decide +kernel
  have down' : crossed.topicField 6 TopicTable.down = 0 := by decide +kernel
  have up' : crossed.topicField 6 TopicTable.up = 0 := by decide +kernel
  cases p <;> exact ⟨calm_of _ rfl, rfl, by decide +kernel, by decide, rfl, (by decide : (9 : Node) ≠ 0), by decide, rfl, rfl,
    down, up, down', up'⟩

/-- A STATE frame, a broadcast COMMAND and a REPLY to all nodes. -/
theorem witness_PassingFrameIsForwarded_others :
    let reply : Frame := { frame with kind := .reply, dst := some 63 }
    receive stateFrame.lineBits = some stateFrame ∧ stateFrame.kind = .state ∧ receive allFrame.lineBits = some allFrame ∧
      allFrame.dst ≠ some yard.node ∧ allFrame.dst = some 63 ∧ receive reply.lineBits = some reply ∧
      reply.dst ≠ some yard.node ∧ reply.kind = .reply := by
  decide +kernel

/-- The head of the spur's full queue is in flight. -/
theorem witness_UrgentFrameMakesRoom_flight (c : ClassNo) :
    let x : Frame := { frame with cls := c }
    let s := at' fun s => s.mapPort .spur fun y =>
      { y with line := .sending false stateFrame, fwd := [stateFrame] ++ (List.replicate 14 x ++ x :: []) }
    (s.port .spur).phase ≠ .isolated ∧ (s.port .spur).fwd = [stateFrame] ++ (List.replicate 14 x ++ x :: []) ∧
      16 ≤ (s.port .spur).fwd.length ∧ ∃ g h, (s.port .spur).line = .sending false g ∧ [stateFrame] = [h] :=
  ⟨(by decide : PortPhase.active ≠ .isolated), rfl, le_of_eq rfl, _, _, rfl, rfl⟩

/-- The spur's forward queue holds sixteen frames of one class, so that the youngest is to go, or none may. -/
theorem witness_UrgentFrameMakesRoom (c : ClassNo) :
    let x : Frame := { frame with cls := c }
    let s := at' fun s => s.mapPort .spur fun y => { y with fwd := List.replicate 15 x ++ x :: [] }
    (s.port .spur).phase = .active ∧ (s.port .spur).line = .held ∧ 16 ≤ (s.port .spur).fwd.length ∧
      ({ frame with cls := 0 } : Frame).cls < 2 ∧ (s.port .spur).fwd = List.replicate 15 x ++ x :: [] ∧
      ∀ y ∈ List.replicate 15 x ++ x :: [], y.cls = c := by
  refine ⟨rfl, rfl, le_of_eq rfl, by decide, rfl, fun y hy => ?_⟩
  rcases List.mem_append.mp hy with h | h
  · rw [(List.mem_replicate.mp h).2]
  · rw [List.mem_singleton.mp h]

/-- A DEGRADED port that sends, at any score: 80, 191 and 192 among them; its own queue holds a reply. -/
theorem witness_SendingEnds_degraded (n : Nat) (o : Bool) :
    let d : OwnEntry := { record := none, frame := frame, changed := false, leaving := false, flying := false, joined := 2 }
    let s := calm fun s => s.mapPort .trunk fun x =>
      { x with phase := .degraded, line := .sending o frame, fwd := [frame], own := [d], score := n }
    s.Calm ∧ (s.port .trunk).line = .sending o frame ∧ (∀ y ∈ (s.port .trunk).own, y.leaving = false) ∧
      (s.port .trunk).phase = .degraded ∧ (s.port .trunk).score = n ∧ (s.port .trunk).fwd ≠ [] ∧
      ∃ e ∈ (s.port .trunk).own, e.record = none :=
  ⟨calm_of _ rfl, rfl, fun y hy => by rw [List.mem_singleton.mp (show y ∈ [_] from hy)], rfl, rfl, List.cons_ne_nil _ _, _,
    List.mem_singleton.mpr rfl, rfl⟩

/-- A reply in flight, of an entry that changed or not, behind another entry; a forwarded frame in flight. -/
theorem witness_SendingEnds (n : Nat) (chg : Bool) :
    let e : OwnEntry := { record := some 2, frame := stateFrame, changed := chg, leaving := false, flying := true, joined := 1 }
    let d : OwnEntry := { record := none, frame := frame, changed := false, leaving := false, flying := false, joined := 2 }
    let s := calm fun s => s.mapPort .trunk fun x =>
      { x with line := .sending true stateFrame, own := [d] ++ e :: [], score := n }
    let u := calm (sends n)
    s.Calm ∧ (s.port .trunk).line = .sending true stateFrame ∧ (∀ y ∈ (s.port .trunk).own, y.leaving = false) ∧
      (s.port .trunk).phase = .active ∧ (s.port .trunk).score = n ∧ (s.port .trunk).own = [d] ++ e :: [] ∧
      e.flying = true ∧ (∀ y ∈ [d] ++ ([] : List OwnEntry), y.flying = false ∧ y.changed = false) ∧
      u.Calm ∧ (u.port .trunk).line = .sending false frame ∧ (u.port .trunk).fwd = frame :: [] ∧
      (u.port .trunk).score = n := by
  refine ⟨calm_of _ rfl, rfl, ?_, rfl, rfl, rfl, rfl, by simp,
    calm_of _ rfl, rfl, rfl, rfl⟩
  intro y hy
  have hy : y ∈ [_, _] := hy
  rcases List.mem_pair.mp hy with rfl | rfl <;> rfl

/-- Slot 0 FRESH at any age up to its limit of 1000. -/
theorem witness_SlotsAgeAndExpire_expiry (age : Nat) (h : age ≤ 1000) :
    let s := at' fun s => { s with watch := vupdate s.watch 0 fun x => { x with phase := .fresh, age := age } }
    s.power = .running ∧ s.store.commitPending = false ∧ s.watch[(0 : Fin 32)].phase = .fresh ∧
      s.watch[(0 : Fin 32)].age ≤ s.watchField 0 WatchTable.limit := by
  have e : yard.watchField 0 WatchTable.limit = 1000 := by decide +kernel
  exact ⟨rfl, rfl, rfl, h.trans (le_of_eq e.symm)⟩

/-- The expiring slot 0 is the subject of entry 1 and the source slot. -/
theorem witness_SlotsAgeAndExpire_notice :
    let s := at' fun s => { noticed s with watch := vupdate s.watch 0 fun x => { x with phase := .fresh, age := 5 } }
    s.power = .running ∧ s.store.commitPending = false ∧ s.watch[(0 : Fin 32)].phase = .fresh ∧
      s.watch[(0 : Fin 32)].age ≤ s.watchField 0 WatchTable.limit ∧ s.permitField 1 PermitTable.kind = 0 ∧
      s.permitField 1 PermitTable.subject = (0 : Fin 32).val ∧ s.sourceSlot = some 0 := by
  decide +kernel

/-- A step of the base with slots of every phase, at ages 998, 999 and 65,535. -/
theorem witness_SlotsAgeAndExpire_step :
    let s := at' fun s => { s with
      clock := 9999
      watch := Vector.ofFn fun n =>
        if n.val = 0 then { Slot.initial with phase := .fresh, age := 998 }
        else if n.val = 1 then { Slot.initial with phase := .fresh, age := 999 }
        else if n.val = 2 then { Slot.initial with phase := .stale, age := 65535 } else Slot.initial }
    s.pending = [] ∧ s.power = .running ∧ s.due = [] ∧ s.clock = 9999 ∧ s.watch[(0 : Fin 32)].phase = .fresh ∧
      s.watch[(0 : Fin 32)].age + 1 < s.watchField 0 WatchTable.limit ∧ s.watch[(1 : Fin 32)].phase = .fresh ∧
      s.watchField 1 WatchTable.limit ≤ s.watch[(1 : Fin 32)].age + 1 ∧ s.watch[(2 : Fin 32)].phase = .stale ∧
      s.watch[(3 : Fin 32)].phase = .empty := by
  decide +kernel

/-- No payload, a code that is no verb of the kind, and for each verb with arguments too few bytes or the first value past
the range of one that names a thing. -/
theorem witness_UnusableRecordIsAnswered (b : List Byte) :
    (calm (asked .command b)).Calm ∧ (calm (asked .command b)).Head (ask .command b) [] ∧ verbOf .command 64 = none ∧
      verbOf .setup 63 = none ∧
      ∀ x ∈ ([(.command, 1, .scene, [48]), (.command, 2, .groupSet, [12, 0, 0]), (.command, 4, .ovrPush, [0, 16, 0, 0, 0, 0]),
          (.command, 5, .ovrRelease, [12, 0]), (.command, 11, .wlTo, [1, 2]), (.command, 12, .chainSet, [1, 2]),
          (.command, 16, .pfMove, [3]), (.command, 17, .htMove, [2]), (.command, 24, .axisStop, [3]),
          (.command, 26, .clearFault, [3]), (.setup, 64, .cursor, [5, 0, 12, 0]), (.setup, 64, .cursor, [9, 0, 0, 0]),
          (.setup, 65, .write, []), (.setup, 66, .read, [2]), (.setup, 72, .publishNow, [7])] :
          List (Kind × Nat × Instr × List Byte)), verbOf x.1 x.2.1 = some x.2.2.1 ∧ badArguments x.2.2.1 x.2.2.2 = true :=
  ⟨calm_of _ rfl, ⟨rfl, rfl⟩, rfl, rfl, by decide⟩

/-- The own queues of the yard are empty; the trunk stands in any state, ISOLATED among them. -/
theorem witness_ReadEventsSendsAndClears (b : Bool) (ph : PortPhase) :
    let r : Request := { ask .setup [71] with broadcast := b }
    let s := calm fun s => (hears .trunk ph 0 0 s).setIntake [r]
    s.Calm ∧ s.Head r [] ∧ r.kind = .setup ∧ r.payload = 71 :: [] ∧ r.broadcast = b ∧ (s.port r.port).phase = ph ∧
      ∀ p, (s.port p).own.length ≤ 4 :=
  ⟨calm_of _ rfl, ⟨rfl, rfl⟩, rfl, rfl, rfl, rfl, fun p => by cases p <;> exact Nat.zero_le 4⟩

/-- All records, and the last of them alone. -/
theorem witness_PublishNowQueuesRecords (l : List Byte) :
    let s := fun b => calm (asked .setup b)
    (∀ b, (s b).Calm ∧ (s b).Head (ask .setup b) [] ∧ ∀ p, ((s b).port p).own.length ≤ 4) ∧
      (ask .setup [72]).payload = [72] ∧ (ask .setup (72 :: 6 :: l)).payload = 72 :: 6 :: l ∧ (6 : Byte).toNat < 7 :=
  ⟨fun _ => ⟨calm_of _ rfl, ⟨rfl, rfl⟩, fun p => by cases p <;> exact Nat.zero_le 4⟩, rfl, rfl, by decide⟩

/-- The record came in at a trunk that has become ISOLATED. -/
theorem witness_PublishNowQueuesRecords_isolated :
    let s := calm fun s => asked .setup [72] (hears .trunk .isolated 200 0 s)
    s.Calm ∧ s.Head (ask .setup [72]) [] ∧ (∀ p, (s.port p).own.length ≤ 4) ∧ (ask .setup [72]).broadcast = false ∧
      (s.port (ask .setup [72]).port).phase = .isolated :=
  ⟨calm_of _ rfl, ⟨rfl, rfl⟩, fun p => by cases p <;> exact Nat.zero_le 4, rfl, rfl⟩

theorem witness_PublicationTimersQueueRecords :
    let s := calm fun s => { s with
      exe := { s.exe with
        refresh := some 0, pubs := vupdate s.exe.pubs 2 fun x => { x with spacing := some 0, dueTrunk := true } } }
    s.Calm ∧ (∀ p, (s.port p).own.length ≤ 5) ∧ s.exe.pubs[(2 : Fin 7)].spacing.isSome = true ∧
      s.exe.pubs[(2 : Fin 7)].due .trunk = true ∧ s.exe.refresh.isSome = true :=
  ⟨calm_of _ rfl, fun p => by cases p <;> exact Nat.zero_le 5, by decide +kernel, by decide +kernel, rfl⟩

/-- A record that differs from the content held, its spacing timer running or not, with no entry and with its entry, in flight
or not, in the trunk's own queue; and a calm state in which a gypsy pulse counts. -/
theorem witness_PublicationTimersQueueRecords_change (sp : Option Nat) (fly : Bool) :
    let e : OwnEntry := { record := some 2, frame := stateFrame, changed := false, leaving := false, flying := fly, joined := 1 }
    let s := fun own => at' fun s => { s.mapPort .trunk fun x => { x with own := own } with
      exe := { s.exe with pubs := vupdate s.exe.pubs 2 fun x => { x with held := [1], spacing := sp } } }
    (∀ own, (s own).exe.pubs[(2 : Fin 7)].held = [1] ∧ (s own).recordContent 2 = [0, 64, 0] ∧
      (s own).exe.pubs[(2 : Fin 7)].spacing = sp ∧ ((s own).port .trunk).own = own ∧ ((s own).port .spur).own = [] ∧
      (s own).destination .trunk = true ∧ ((s own).port .trunk).phase ≠ .isolated) ∧
      ((s []).port .trunk).holdsRecord 2 = false ∧ ((s [e]).port .trunk).holdsRecord 2 = true ∧
      SortedBy OwnEntry.key [e] ∧ (calm id).Calm ∧ ((calm id).axis .windlass).phase = .idle ∧
      0 < (calm id).axisField .windlass AxisTable.pocket ∧
      (calm id).wl.counter < (calm id).axisField .windlass AxisTable.rode := by
  have f : 0 < yard.axisField .windlass AxisTable.pocket ∧ yard.wl.counter < yard.axisField .windlass AxisTable.rode := by
    decide +kernel
  exact ⟨fun own => ⟨rfl, rfl, rfl, rfl, rfl, rfl, (by decide : PortPhase.active ≠ .isolated)⟩, rfl, rfl, List.pairwise_singleton _ _, calm_of _ rfl, rfl, f⟩

/-- An evaluation is owed, and the ZONE record differs from the content held after it. -/
theorem witness_PublicationTimersQueueRecords_evaluation :
    let s := at' fun s => { s with
      budget := { s.budget with evalDue := true }
      exe := { s.exe with pubs := vupdate s.exe.pubs 0 fun x => { x with held := [1] } } }
    s.power = .running ∧ s.budget.evalDue = true ∧ s.exe.pubs[(0 : Fin 7)].held ≠ s.evalIfDue.recordContent 0 ∧
      ∀ p, (s.port p).own.length < 12 := by
  refine ⟨rfl, rfl, by decide +kernel, fun p => ?_⟩
  cases p <;> exact (by decide : 0 < 12)

/-- A stack of four entries: the lowest unlocked, or locked. -/
def fourEntries (lock : Bool) : List Override := [⟨1, 5, 10, false⟩, ⟨2, 4, 20, false⟩, ⟨3, 4, 30, false⟩, ⟨4, 1, 40, lock⟩]

theorem fourEntries_ok (lock : Bool) : StackOk (fourEntries lock) := by
  cases lock <;> exact ⟨by decide, by decide, by decide⟩

/-- A group with a stack, in GOVERNED. -/
def governed (g : Fin 12) (st : List Override) (s : State) : State :=
  withGroup g (fun x => { x with mode := .governed, stack := st }) s

/-- Group 11, free and locked; without a fade, with one byte of one, and with a whole one. -/
theorem witness_GroupSetGivesABaseCommand (hi lo : Byte) (tail : List Byte) :
    let s := fun st => calm fun s => asked .command (2 :: 11 :: hi :: lo :: tail) (governed 11 st s)
    (∀ st, (s st).Calm ∧ (s st).Head (ask .command (2 :: 11 :: hi :: lo :: tail)) []) ∧ (11 : Byte).toNat = (11 : Fin 12).val ∧
      (s []).groups[(11 : Fin 12)].locked = false ∧ (s [⟨3, 2, 500, true⟩]).groups[(11 : Fin 12)].locked = true ∧
      ([0] : List Byte).length < 2 ∧ ([2, 88, 7] : List Byte) = 2 :: 88 :: [7] ∧ 600 = min 600 (2 * 256 + 88) :=
  ⟨fun _ => ⟨calm_of _ rfl, ⟨rfl, rfl⟩⟩, rfl, rfl, rfl, by decide, rfl, rfl⟩

/-- Scene 0 has two items, of groups 0 and 1, each free or locked. -/
theorem witness_SceneAndAllOff (st : List Override) (b : List Byte) :
    let s := calm fun s => asked .command b (governed 1 st s)
    let item := fun j => groupOf (s.field .scene 0 (SceneTable.itemGroup j))
    s.Calm ∧ s.Head (ask .command b) [] ∧ s.field .scene 0 SceneTable.count = 2 ∧ item 0 = some 0 ∧ item 1 = some 1 ∧
      (∀ i j g, i < j → j < s.field .scene 0 SceneTable.count → item i = some g → item j ≠ some g) ∧
      s.groups[(1 : Fin 12)].stack = st := by
  have count : yard.field .scene 0 SceneTable.count = 2 := by decide +kernel
  have zero : groupOf (yard.field .scene 0 (SceneTable.itemGroup 0)) = some 0 := by decide +kernel
  have one : groupOf (yard.field .scene 0 (SceneTable.itemGroup 1)) = some 1 := by decide +kernel
  refine ⟨calm_of _ rfl, ⟨rfl, rfl⟩, count, zero, one, fun i j g hij hj h => ?_, rfl⟩
  have hj : j < 2 := count ▸ hj
  obtain ⟨rfl, rfl⟩ : i = 0 ∧ j = 1 := by omega
  obtain rfl : (0 : Fin 12) = g := Option.some.inj (zero.symm.trans h)
  exact fun k => absurd (Option.some.inj (one.symm.trans k)) (by decide)

/-- An empty stack, a full one with the pushing source in it, and a full one without it whose lowest entry may be evicted
(priority 2 over 1) or not (equal priority, or a lock); the pushed entry stands on top from priority 5 up, and below that
the top's own source, pushing again, sinks. -/
theorem witness_PushedOverrideGoverns (src prio hi lo lock : Byte) (st : List Override) :
    let b := [4, 0, src, prio, hi, lo, lock]
    let s := calm fun s => asked .command b (governed 0 st s)
    s.Calm ∧ s.Head (ask .command b) [] ∧ s.groups[(0 : Fin 12)].stack = st ∧ (15 : Byte).toNat ≤ 15 ∧ StackOk [] ∧
      StackOk (fourEntries false) ∧ StackOk (fourEntries true) ∧ s.transition 0 = 10 ∧ s.transition 1 = 0 ∧
      ((fourEntries true).filter fun x => x.source != 1).head? = some ⟨2, 4, 20, false⟩ ∧
      ((fourEntries true).filter fun x => x.source != 2).length < 4 ∧
      ((fourEntries true).filter fun x => x.source != 9) = [⟨1, 5, 10, false⟩, ⟨2, 4, 20, false⟩, ⟨3, 4, 30, false⟩] ++
        [⟨4, 1, 40, true⟩] := by
  have slow : yard.transition 0 = 10 := by decide +kernel
  have quick : yard.transition 1 = 0 := by decide +kernel
  exact ⟨calm_of _ rfl, ⟨rfl, rfl⟩, rfl, by decide, ⟨by decide, by decide, by decide⟩, fourEntries_ok _, fourEntries_ok _, slow,
    quick, by decide, by decide, by decide⟩

/-- The one entry, one of two with equal source and level left below, or none of the source. -/
theorem witness_ReleasedOverrideLeaves (src : Byte) (st : List Override) :
    let b := [5, 0, src]
    let s := calm fun s => asked .command b (governed 0 st s)
    s.Calm ∧ s.Head (ask .command b) [] ∧ s.groups[(0 : Fin 12)].stack = st ∧ (0 : Byte).toNat = (0 : Fin 12).val ∧
      ([⟨3, 2, 500, true⟩] : List Override).filter (fun o => o.source != 3) = [] ∧
      (fourEntries false).filter (fun o => o.source != 1) = ⟨2, 4, 20, false⟩ :: (fourEntries false).drop 2 ∧
      (fourEntries false).filter (fun o => o.source != 9) = fourEntries false :=
  ⟨calm_of _ rfl, ⟨rfl, rfl⟩, rfl, rfl, by decide, by decide, by decide⟩

/-- The last step of a fade, of the base in FOLLOW and in GOVERNED, and of the output in RETURN. -/
theorem witness_FadeStepMovesTheLevel (m : OutMode) :
    let f : Fade := ⟨900, 19, 20, 0⟩
    let s := calm (withGroup 1 fun g => { g with mode := m, baseFade := some f })
    let u := calm (withGroup 1 fun g => { g with mode := .returning, baseFade := none, outFade := some f })
    s.Calm ∧ f.elapsed < f.steps ∧ s.groups[(1 : Fin 12)].baseFade = some f ∧ s.groups[(1 : Fin 12)].mode = m ∧ u.Calm ∧
      u.groups[(1 : Fin 12)].outFade = some f ∧ u.groups[(1 : Fin 12)].baseFade = none :=
  ⟨calm_of _ rfl, by decide, rfl, rfl, calm_of _ rfl, rfl, rfl⟩

/-- The last step of the two fades of a return. -/
theorem witness_FadeStepMovesTheLevel_return :
    let f : Fade := ⟨900, 19, 20, 0⟩
    let o : Fade := ⟨400, 19, 20, 0⟩
    let s := calm (withGroup 1 fun g => { g with mode := .returning, baseFade := some f, outFade := some o })
    s.Calm ∧ f.elapsed < f.steps ∧ o.elapsed < o.steps ∧ s.groups[(1 : Fin 12)].mode = .returning ∧
      s.groups[(1 : Fin 12)].baseFade = some f ∧ s.groups[(1 : Fin 12)].outFade = some o :=
  ⟨calm_of _ rfl, by decide, by decide, rfl, rfl, rfl⟩

theorem witness_FadeReachesItsTarget : 0 < 30 ∧ 29 < 30 ∧ 0 ≤ 735 ∧ 250 ≤ 900 := by decide

theorem witness_StackKeepsItsOrder :
    StackOk (fourEntries true) ∧ (pushStack (fourEntries true) ⟨9, 6, 1, false⟩).2 = .refused ∧
      (pushStack (fourEntries false) ⟨9, 6, 1, true⟩).2 ≠ .refused ∧ (⟨4, 1, 40, true⟩ : Override) ∈ fourEntries true :=
  ⟨fourEntries_ok _, by decide, by decide, by decide⟩

/-- Group 1 with a full stack, and a command that pushes a fifth entry. -/
theorem witness_StackKeepsItsOrder_step :
    let s : State :=
      { (at' fun s => asked .command [4, 1, 9, 6, 1, 44, 0] (governed 1 (fourEntries false) s)) with pending := [.ovrPush] }
    (∀ g : Fin 12, s.groups[g].Ok) ∧ ∃ t, step s = .next t := by
  refine ⟨fun g => ?_, _, rfl⟩
  by_cases h : g = 1
  · subst h
    exact ⟨fourEntries_ok false, by decide⟩
  · have e : ({ (at' fun s => asked .command [4, 1, 9, 6, 1, 44, 0] (governed 1 (fourEntries false) s)) with
        pending := [.ovrPush] } : State).groups[g] = LightGroup.initial 0 := by
      fin_cases g <;> first | exact absurd rfl h | rfl
    rw [e]
    exact ⟨⟨by decide, by decide, by decide⟩, by decide⟩

/-- spec/07, 7.3.1. -/
theorem witness_SheddingTakesTheLargestScale : (verdict figures 800 500).phase = .shedding := by decide +kernel

/-- An evaluation that ends in NORMAL, with channel 0 on and channel 1 off, and one that ends in OVERDRAWN. -/
theorem witness_GrantsStayWithinTheLimit :
    yard.evaluate.budget.phase ≠ .overdrawn ∧ yard.evaluate.channelOn 0 = true ∧ yard.evaluate.channelOn 1 = false ∧
      (at' fun s => { s with store := { s.store with active := cells .zone 0 [(7, 1)] } }).evaluate.budget.phase = .overdrawn := by
  decide +kernel

/-- The source slot is slot 0, its byte at offset 1 a 2, so BATT; a captured length of 1 is too short; no slot is named. -/
theorem witness_GrantsStayWithinTheLimit_source :
    let s := fun payload => at' fun s => { s with
      store := { s.store with active := cells .zone 0 [(8, 0), (9, 1)] }
      watch := vupdate s.watch 0 fun x => { x with phase := .fresh, payload := payload } }
    (s [0, 2]).sourceSlot = some 0 ∧ (s [0, 2]).watch[(0 : Fin 32)].phase = .fresh ∧
      (s [0, 2]).watch[(0 : Fin 32)].payload[(s [0, 2]).zone Zone.sourceOffset]? = some 2 ∧
      (s [0]).watch[(0 : Fin 32)].payload.length ≤ (s [0]).zone Zone.sourceOffset ∧ yard.sourceSlot = none := by
  decide +kernel

/-- Two waiters, of which the head fits. -/
theorem witness_AdmissionKeepsTheLimit :
    let s := at' fun s => { s with budget := { s.budget with limit := 310, waiters := [.windlass, .hatch] } }
    s.budget.waiters.Nodup ∧ (∀ a ∈ s.budget.waiters, s.budget.res.get a = .none) ∧
      s.zone Zone.baseDraw + s.reserved + 0 ≤ s.budget.limit ∧ s.budget.waiters = .windlass :: [.hatch] ∧
      s.zone Zone.baseDraw + s.reserved + s.axisField .windlass AxisTable.startRes + 0 ≤ s.budget.limit := by
  decide +kernel

theorem witness_PermitsFollowTheEntries : yard.permitField 23 PermitTable.enabled = 0 ∧ (fun _ : Fin 24 => true) 23 = true := by
  decide +kernel

/-- Four permit entries with their subjects. -/
def readings : Bank :=
  cells .permit 0
    [(12, 128), (14, 1), (15, 2), (24, 128), (25, 31), (26, 7), (36, 130), (37, 2), (48, 129), (49, 4)]

/-- Entry 1 reads two bytes of slot 0 at offset 1, entry 2 one byte of slot 31 at offset 7, entry 3 the position of the
hatch, entry 4 the up foot switch; slot 0 is FRESH with any payload, slot 31 STALE. -/
theorem witness_PermitsFollowTheEntries_subjects :
    let s := at' fun s => { s with
      store := { s.store with active := readings }
      watch := vupdate (vupdate s.watch 0 fun x => { x with phase := .fresh, payload := [9, 1, 44] }) 31 fun x =>
        { x with phase := .stale } }
    (∀ e : Fin 24, 0 < e.val → e.val < 5 → s.permitField e PermitTable.enabled ≠ 0) ∧
      s.permitField 1 PermitTable.kind = 0 ∧ s.permitField 1 PermitTable.subject = (0 : Fin 32).val ∧
      s.permitField 1 PermitTable.offset = 1 ∧ s.permitField 1 PermitTable.width = 2 ∧
      s.watch[(0 : Fin 32)].phase = .fresh ∧ s.watch[(0 : Fin 32)].payload[1]? = some 1 ∧
      s.watch[(0 : Fin 32)].payload[2]? = some 44 ∧ s.permitField 2 PermitTable.kind = 0 ∧
      s.permitField 2 PermitTable.subject = (31 : Fin 32).val ∧ s.permitField 2 PermitTable.width = 1 ∧
      s.watch[(31 : Fin 32)].phase ≠ .fresh ∧ s.permitField 3 PermitTable.kind = 2 ∧
      s.permitField 3 PermitTable.subject = axisCode .hatch ∧ s.permitField 4 PermitTable.kind = 1 ∧
      permitInput (s.permitField 4 PermitTable.subject) = some footUpInput := by
  decide +kernel

/-- Entry 0 reads general input 2, and no other entry does; the other entries are disabled. -/
theorem witness_GeneralInputReachesThePermits :
    yard.power = .running ∧ yard.store.commitPending = false ∧ yard.permitField 0 PermitTable.kind = 1 ∧
      yard.permitField 0 PermitTable.subject = (2 : Fin 4).val ∧ yard.permitField 0 PermitTable.enabled ≠ 0 ∧
      yard.permitField 1 PermitTable.kind ≠ 1 := by
  decide +kernel

/-- The entry of that input gates P_UP, and the platform waits to go up, or goes up. -/
theorem witness_GeneralInputReachesThePermits_axis (ph : AxisPhase) :
    let s := at' fun s => working .platform ph .pUp s
    s.power = .running ∧ s.store.commitPending = false ∧ (s.axis .platform).phase = ph ∧
      (s.axis .platform).dir = some .pUp ∧ s.axisField .platform AxisTable.lag ≠ 0 ∧ s.budget.waiters = [] ∧
      (s.permitField 0 PermitTable.gated).testBit Motion.pUp.bit = true := by
  have f : yard.axisField .platform AxisTable.lag ≠ 0 ∧
      (yard.permitField 0 PermitTable.gated).testBit Motion.pUp.bit = true := by decide +kernel
  exact ⟨rfl, rfl, rfl, rfl, f.1, rfl, f.2⟩

/-- A sample with a general input at its last count, the home input at its first, and the gypsy at its last, in both
directions. -/
theorem witness_GeneralInputReachesThePermits_sample (gypsy : Bool) :
    let s := at' fun s => { s with
      clock := 9999
      inp := { s.inp with debounced := vupdate (vupdate (vupdate s.inp.debounced (generalInput 2) fun x =>
          { x with active := false, pinHigh := false, count := 19 }) homeInput fun x =>
          { x with active := false, pinHigh := false, count := 0 }) gypsyInput fun x =>
          { x with active := gypsy, pinHigh := gypsy, count := 1 } } }
    s.pending = [] ∧ s.power = .running ∧ s.due = [] ∧ s.clock = 9999 ∧
      ∀ i : Fin 13, i = generalInput 2 ∨ i = homeInput ∨ i = gypsyInput →
        ((!s.inp.debounced[i].pinHigh) != s.inp.debounced[i].active) = true ∧
        (s.inp.debounced[i].count + 1 < (if i = gypsyInput then 2 else 20) ↔ i = homeInput) := by
  cases gypsy <;> decide +kernel

/-- The yard with one axis in a phase, with a direction and a position, with a latch and a set of blocked motions. -/
def poised (a : Axis) (ph : AxisPhase) (dir : Option Motion) (pos : Position) (latch : Bool) (blocked : BitVec 6) (s : State) :
    State :=
  { s.mapAxis a fun x => { x with phase := ph, dir := dir, pos := pos } with
    axes := { (s.mapAxis a fun x => { x with phase := ph, dir := dir, pos := pos }).axes with latch := latch }
    permits := { s.permits with blocked := blocked } }

theorem inSet_none (m : Motion) : inSet 0 m = false := by cases m <;> decide

theorem poised_admitted (a : Axis) (ph : AxisPhase) (dir : Option Motion) (pos : Position) (latch : Bool)
    (blocked : BitVec 6) (b : Axis) : ((poised a ph dir pos latch blocked yard).axis b).admitted = false := by
  cases a <;> cases b <;> rfl

theorem poised_phase (a : Axis) (ph : AxisPhase) (dir : Option Motion) (pos : Position) (latch : Bool)
    (blocked : BitVec 6) : ((poised a ph dir pos latch blocked yard).axis a).phase = ph := by
  cases a <;> rfl

/-- A request to the platform, with any latch, phase, direction, position and permit, a commit pending or not; and in a zone
without a platform. -/
theorem witness_HydraulicStartRefused (ph : AxisPhase) (pend : Bool) (h : pend = true → ph ≠ .idle) (dir : Option Motion)
    (pos : Position) (latch : Bool) (b : List Byte) :
    let s := still pend fun s => asked .command b (poised .platform ph dir pos latch 4 s)
    let u := still false fun s => asked .command b { s with store := { s.store with active := [] } }
    HydStart .pfMove [16, 0] pos .platform .pUp .up ∧ (ask .command [16, 1]).payload = 16 :: 1 :: [] ∧ s.Still ∧
      s.Head (ask .command b) [] ∧ (s.axis .platform).pos = pos ∧ s.fitted .platform = true ∧ s.axes.latch = latch ∧
      (s.axis .platform).phase = ph ∧ (s.axis .platform).dir = dir ∧ s.blocked .pUp = true ∧ s.store.commitPending = pend ∧
      u.Still ∧ u.Head (ask .command b) [] ∧ u.fitted .platform = false := by
  have fit : yard.fitted .platform = true := by decide +kernel
  have none : ({ yard with store := { yard.store with active := [] } } : State).fitted .platform = false := by decide +kernel
  exact ⟨.up pos [], rfl, still_of (poised_admitted .platform ph dir pos latch 4) fun k => ⟨.platform, h k⟩, ⟨rfl, rfl⟩, rfl, fit, rfl, rfl,
    rfl, (by decide : inSet 4 .pUp = true), rfl, still_of (fun a => by cases a <;> rfl) (fun k => absurd k (by decide)),
    ⟨rfl, rfl⟩, none⟩

/-- The platform starts or runs up from any place, UP and DECK among them; the windlass hauls or pays out, its counter at the
target or 1 mm short of it. -/
theorem witness_StartRequestRetargetsARun (b : List Byte) (ph : AxisPhase) (pos : Position) (d : Nat) :
    let s := still false fun s => asked .command b (poised .platform ph (some .pUp) pos false 0 s)
    let u := fun m n => still false fun s => asked .command b
      (withWl (fun w => { w with counter := n, duty := d + 1 }) (poised .windlass ph (some m) .out false 0 s))
    HydStart .pfMove [16, 0] pos .platform .pUp .up ∧ s.Still ∧ s.Head (ask .command b) [] ∧ s.axes.latch = false ∧
      s.store.commitPending = false ∧ (s.axis .platform).pos = pos ∧ s.fitted .platform = true ∧
      (s.axis .platform).phase = ph ∧ (s.axis .platform).dir = some .pUp ∧ Position.between ≠ Target.up.position ∧
      s.axisField .platform AxisTable.lag ≠ 0 ∧
      WindlassStart .wlHaul [8] .manualHaul .wHaul 0 ∧ WindlassStart .wlTo [11, 0, 0, 1] .payoutTo .wPayout 1 ∧
      (∀ m n, (u m n).Still ∧ (u m n).Head (ask .command b) [] ∧ (u m n).fitted .windlass = true ∧
        (u m n).store.commitPending = false ∧ ((u m n).axis .windlass).phase = ph ∧
        ((u m n).axis .windlass).dir = some m ∧ (u m n).footRun = false ∧ (u m n).input homeInput = false ∧
        (u m n).axisField .windlass AxisTable.rampTime ≠ 0 ∧ (u m n).wl.duty ≠ 0) ∧
      ∀ m, (u m 0).wl.counter < min 1 (u m 0).rode ∧ min 1 (u m 1).rode ≤ (u m 1).wl.counter := by
  have fitP : yard.fitted .platform = true ∧ yard.axisField .platform AxisTable.lag ≠ 0 := by decide +kernel
  have fitW : yard.fitted .windlass = true ∧ yard.axisField .windlass AxisTable.rampTime ≠ 0 := by decide +kernel
  have rode : 0 < min 1 yard.rode := by decide +kernel
  exact ⟨.up _ [], still_of (poised_admitted .platform ph (some .pUp) pos false 0) (fun k => absurd k (by decide)), ⟨rfl, rfl⟩, rfl, rfl, rfl, fitP.1,
    rfl, rfl, by decide, fitP.2, .haul [], .to 0 0 1 [],
    fun m n => ⟨still_of (poised_admitted .windlass ph (some m) .out false 0) (fun k => absurd k (by decide)), ⟨rfl, rfl⟩,
      fitW.1, rfl, rfl, rfl, rfl, rfl, fitW.2, Nat.succ_ne_zero d⟩,
    fun m => ⟨rode, Nat.min_le_left 1 _⟩⟩

/-- The yard, in which every start reservation fits. -/
theorem yard_fits (a : Axis) : yard.fits a := by
  unfold State.fits
  cases a <;> decide +kernel

/-- The requests of the yard are those of its groups, so what the calmed yard admits is what the yard does. -/
theorem yard_requests : (Vector.ofFn yard.channelRequest) = yard.requests := by decide +kernel

theorem limitOf_congr {s t : State} (h : s.store.active = t.store.active) (x : Source) : s.limitOf x = t.limitOf x := by
  have z : ∀ f, s.zone f = t.zone f := fun f => by
    unfold State.zone State.field
    rw [h]
  unfold State.limitOf
  simp only [z]

theorem sourceNow_of_none {s : State} (h : s.sourceSlot = none) : s.sourceNow = .unknown := by
  unfold State.sourceNow
  rw [h]

/-- Admission looks at the active bank, the slots, the requests and the reservations alone. -/
theorem fits_congr {s t : State} (bank : s.store.active = t.store.active) (slots : s.watch = t.watch)
    (req : s.requests = t.requests) (res : s.budget.res = t.budget.res) (a : Axis) : s.fits a ↔ t.fits a := by
  have f : s.field = t.field := by
    funext x i y
    unfold State.field
    rw [bank]
  have n : s.sourceNow = t.sourceNow := by
    simp only [State.sourceNow, State.sourceSlot, State.zone, f, slots]
    rfl
  have l : s.limitOf = t.limitOf := funext (limitOf_congr bank)
  have c : s.chans = t.chans := by
    unfold State.chans
    congr 1
    funext k
    simp only [State.chan, State.channelOn, State.channelField, f, req]
  simp only [State.fits, State.zone, State.axisField, State.reserved, f, n, l, c, res]

theorem channelRequest_congr {s t : State} (bank : s.store.active = t.store.active) (groups : s.groups = t.groups) :
    s.channelRequest = t.channelRequest := by
  have f : s.field = t.field := by
    funext x i y
    unfold State.field
    rw [bank]
  funext c
  simp only [State.channelRequest, State.channelOn, State.channelField, f, groups]
  rfl

/-- What a state admits whose requests are those of its groups, a calmed state with the same tables, groups, slots and
reservations admits. -/
theorem calmed_fits {s t : State} {a : Axis} (bank : s.store.active = t.store.active) (groups : s.groups = t.groups)
    (slots : s.watch = t.watch) (res : s.budget.res = t.budget.res) (r : Vector.ofFn t.channelRequest = t.requests)
    (f : t.fits a) : (calmed s).fits a :=
  (fits_congr (s := calmed s) (t := t) bank slots ((congrArg Vector.ofFn (channelRequest_congr bank groups)).trans r) res
    a).mpr f

theorem calm_fits (b : List Byte) (a : Axis) : (calm (asked .command b)).fits a :=
  calmed_fits (t := yard) rfl rfl rfl rfl yard_requests (yard_fits a)

/-- A start request of the platform, with the valve lead, and of the hatch, without, at the yard. -/
theorem witness_HydraulicStartRuns (b : List Byte) :
    let s := calm (asked .command b)
    HydStart .pfMove [16, 0] .unknown .platform .pUp .up ∧ HydStart .htMove [17, 0] .unknown .hatch .hOpen .opened ∧ s.Calm ∧
      s.Head (ask .command b) [] ∧
      ∀ h, (s.axis (hydAxis h)).pos = .unknown ∧ s.fitted (hydAxis h) = true ∧ s.axes.latch = false ∧
        (s.axis (hydAxis h)).phase = .idle ∧ (∀ t : Target, Position.unknown ≠ t.position) ∧ (∀ m, s.blocked m = false) ∧
        s.fits (hydAxis h) ∧ s.axes.pumpList = [] ∧ s.out.valves = (false, false, false, false, false) ∧
        s.conflict h = false ∧ ∀ t, s.input (targetSensor t) = false := by
  have fitP : yard.fitted .platform = true := by decide +kernel
  have fitH : yard.fitted .hatch = true := by decide +kernel
  exact ⟨.up _ [], .opening _ [], calm_of _ rfl, ⟨rfl, rfl⟩, fun h =>
    ⟨by cases h <;> rfl, (match h with | .platform => fitP | .hatch => fitH), rfl, by cases h <;> rfl,
      fun t => by cases t <;> decide, inSet_none, calm_fits b _, rfl, rfl, by cases h <;> rfl, fun t => by cases t <;> rfl⟩⟩

/-- The yard with limits of 0, so that no start reservation fits: the platform has a start window, the hatch has none. -/
def short (b : List Byte) : State := calm fun s => asked .command b { s with store := { s.store with active := tables.drop 6 } }

theorem short_fits (b : List Byte) (a : Axis) : ¬ (short b).fits a := by
  have z : ({ yard with store := { yard.store with active := tables.drop 6 } } : State).zone Zone.baseDraw = 10 := by
    decide +kernel
  have l : ({ yard with store := { yard.store with active := tables.drop 6 } } : State).limitOf .unknown = 0 := by
    decide +kernel
  have n : ({ yard with store := { yard.store with active := tables.drop 6 } } : State).sourceSlot = none := by
    decide +kernel
  intro h
  have z' : (short b).zone Zone.baseDraw = 10 := z
  have l' : (short b).limitOf .unknown = 0 := (limitOf_congr rfl _).trans l
  unfold State.fits at h
  rw [sourceNow_of_none (s := short b) n] at h
  omega

theorem witness_HydraulicStartWaits (b : List Byte) :
    HydStart .pfMove [16, 0] .unknown .platform .pUp .up ∧ HydStart .htMove [17, 0] .unknown .hatch .hOpen .opened ∧
      (short b).Calm ∧ (short b).Head (ask .command b) [] ∧ (short b).axes.latch = false ∧ (short b).axes.pumpList = [] ∧
      (short b).axisField .platform AxisTable.window ≠ 0 ∧ (short b).axisField .hatch AxisTable.window = 0 ∧
      ∀ h, ((short b).axis (hydAxis h)).pos = .unknown ∧ ((short b).axis (hydAxis h)).phase = .idle ∧
        (short b).fitted (hydAxis h) = true ∧ ¬ (short b).fits (hydAxis h) ∧ ∀ m, (short b).blocked m = false := by
  have w : (calm fun s => { s with store := { s.store with active := tables.drop 6 } }).axisField .platform
      AxisTable.window ≠ 0 := by decide +kernel
  have z : (calm fun s => { s with store := { s.store with active := tables.drop 6 } }).axisField .hatch
      AxisTable.window = 0 := by decide +kernel
  have f : ∀ h, (calm fun s => { s with store := { s.store with active := tables.drop 6 } }).fitted (hydAxis h) = true := by
    intro h
    cases h <;> decide +kernel
  exact ⟨.up _ [], .opening _ [], calm_of _ rfl, ⟨rfl, rfl⟩, rfl, rfl, w, z, fun h =>
    ⟨by cases h <;> rfl, by cases h <;> rfl, f h, short_fits b _, inSet_none⟩⟩

/-- The start fits, and the other axis stands in the pump list: the platform has a start window, the hatch has none. -/
theorem witness_HydraulicStartWaits_pump (b : List Byte) (h : Hyd) :
    let o : Hyd := match h with
      | .platform => .hatch
      | .hatch => .platform
    let s := { calm (asked .command b) with axes := { (calm (asked .command b)).axes with pumpList := [o] } }
    s.Calm ∧ s.Head (ask .command b) [] ∧ (s.axis (hydAxis h)).pos = .unknown ∧ s.fitted (hydAxis h) = true ∧
      s.axes.latch = false ∧ (s.axis (hydAxis h)).phase = .idle ∧ (∀ m, s.blocked m = false) ∧ h ∉ s.axes.pumpList ∧
      s.fits (hydAxis h) ∧ s.axes.pumpList ≠ [] ∧
      (s.axisField (hydAxis h) AxisTable.window ≠ 0 ↔ h = .platform) := by
  have fit : yard.fitted .platform = true ∧ yard.fitted .hatch = true ∧
      yard.axisField .platform AxisTable.window ≠ 0 ∧ yard.axisField .hatch AxisTable.window = 0 := by decide +kernel
  have c : (calm (asked .command b)).Calm := calm_of _ rfl
  refine ⟨⟨⟨rfl, c.noneStarting, rfl, rfl, c.requests, c.held⟩, rfl⟩, ⟨rfl, rfl⟩, by cases h <;> rfl, ?_, rfl,
    by cases h <;> rfl, inSet_none, by cases h <;> exact (fun k => absurd (List.mem_singleton.mp k) (by decide)), calm_fits b _, List.cons_ne_nil _ _, ?_⟩
  · cases h
    · exact fit.1
    · exact fit.2.1
  · cases h
    · exact ⟨fun _ => rfl, fun _ => fit.2.2.1⟩
    · exact ⟨fun k => absurd fit.2.2.2 k, fun k => absurd k (by decide)⟩

/-- Any latch, phase, direction and mode, and a counter at the target or at 0, with a commit pending or not; and a zone without
a windlass. -/
theorem witness_WindlassStartRefused (ph : AxisPhase) (pend : Bool) (h : pend = true → ph ≠ .idle) (dir : Option Motion)
    (latch : Bool) (mode : WindlassMode) (n : Nat) :
    let s := still pend fun s => asked .command [8]
      (withInput homeInput true (withWl (fun w => { w with mode := mode, counter := n })
        (poised .windlass ph dir .out latch 3 s)))
    let u := still false fun s => asked .command [8] { s with store := { s.store with active := [] } }
    WindlassStart .wlHaul [8] .manualHaul .wHaul 0 ∧ WindlassStart .wlTo [11, 0, 0, 1] .payoutTo .wPayout 1 ∧ s.Still ∧
      s.Head (ask .command [8]) [] ∧ s.fitted .windlass = true ∧ s.axes.latch = latch ∧ (s.axis .windlass).phase = ph ∧
      (s.axis .windlass).dir = dir ∧ s.wl.mode = mode ∧ s.wl.counter = n ∧ s.input homeInput = true ∧
      s.blocked .wHaul = true ∧ s.blocked .wPayout = true ∧ u.Still ∧ s.store.commitPending = pend ∧ u.fitted .windlass = false ∧
      u.Head (ask .command [8]) [] := by
  have fit : yard.fitted .windlass = true := by decide +kernel
  exact ⟨.haul [], .to 0 0 1 [], still_of (poised_admitted .windlass ph dir .out latch 3) fun k => ⟨.windlass, h k⟩, ⟨rfl, rfl⟩, fit,
    rfl, rfl, rfl, rfl, rfl, rfl, (by decide : inSet 3 .wHaul = true), (by decide : inSet 3 .wPayout = true),
    still_of (fun a => by cases a <;> rfl) (fun k => absurd k (by decide)), rfl, by decide +kernel, ⟨rfl, rfl⟩⟩

/-- At the yard every start fits, and with limits of 0 none does. -/
theorem witness_WindlassStartRuns (b : List Byte) :
    let s := calm (asked .command b)
    WindlassStart .wlPayout [9] .manualPayout .wPayout 0 ∧ WindlassStart .wlTo [11, 0, 0, 1] .payoutTo .wPayout 1 ∧
      (∀ t, t = s ∨ t = short b → t.Calm ∧ t.Head (ask .command b) [] ∧ t.fitted .windlass = true ∧ t.axes.latch = false ∧
        (t.axis .windlass).phase = .idle ∧ t.blocked .wPayout = false ∧ t.wl.counter < min 1 t.rode ∧ t.wl.pause = none ∧
        t.wl.duty = 0 ∧ t.axisField .windlass AxisTable.rampTime ≠ 0 ∧ t.axisField .windlass AxisTable.window ≠ 0) ∧
      s.fits .windlass ∧ ¬ (short b).fits .windlass := by
  have f : yard.fitted .windlass = true ∧ 0 < min 1 yard.rode ∧ yard.axisField .windlass AxisTable.rampTime ≠ 0 ∧
      yard.axisField .windlass AxisTable.window ≠ 0 := by decide +kernel
  have g : (short []).fitted .windlass = true ∧ 0 < min 1 (short []).rode ∧
      (short []).axisField .windlass AxisTable.rampTime ≠ 0 ∧ (short []).axisField .windlass AxisTable.window ≠ 0 := by
    decide +kernel
  refine ⟨.payout [], .to 0 0 1 [], fun t ht => ?_, calm_fits b _, short_fits b _⟩
  rcases ht with rfl | rfl
  · exact ⟨calm_of _ rfl, ⟨rfl, rfl⟩, f.1, rfl, rfl, inSet_none _, f.2.1, rfl, rfl, f.2.2.1, f.2.2.2⟩
  · exact ⟨calm_of _ rfl, ⟨rfl, rfl⟩, g.1, rfl, rfl, inSet_none _, g.2.1, rfl, rfl, g.2.2.1, g.2.2.2⟩

/-- A zone whose windlass has no ramp time and no start window. -/
def bare (s : State) : State :=
  { s with store := { s.store with active := cells .zone 0 [(0, 11), (2, 11), (4, 11)] ++ cells .axis 0 [(0, 128)] } }

/-- In that zone a start fits, free of the reversal pause or held by it. -/
theorem witness_WindlassStartRuns_atOnce (b : List Byte) (pause : Option Nat) :
    let s := calm fun s => asked .command b (bare (withWl (fun w => { w with pause := pause, lastDir := some .wHaul }) s))
    s.Calm ∧ s.Head (ask .command b) [] ∧ s.fitted .windlass = true ∧ s.axes.latch = false ∧
      (s.axis .windlass).phase = .idle ∧ s.blocked .wPayout = false ∧ s.wl.duty = 0 ∧ s.inp.overActive = false ∧
      s.wl.lastDir = some .wHaul ∧ s.wl.pause = pause ∧ s.axisField .windlass AxisTable.rampTime = 0 ∧
      s.axisField .windlass AxisTable.window = 0 ∧ s.fits .windlass := by
  have f : (bare yard).fitted .windlass = true ∧ (bare yard).axisField .windlass AxisTable.rampTime = 0 ∧
      (bare yard).axisField .windlass AxisTable.window = 0 := by decide +kernel
  have r : Vector.ofFn (bare yard).channelRequest = (bare yard).requests := by decide +kernel
  have g : (bare yard).fits .windlass := by
    unfold State.fits
    decide +kernel
  exact ⟨calm_of _ rfl, ⟨rfl, rfl⟩, f.1, rfl, rfl, inSet_none _, rfl, rfl, rfl, rfl, f.2.1, f.2.2, calmed_fits (t := bare yard) rfl rfl rfl rfl r g⟩

/-- A windlass in a phase and a mode, its keep-alive, stall and reversal timers running, at a duty. -/
def driving (ph : AxisPhase) (mode : WindlassMode) (duty target : Nat) (s : State) : State :=
  withWl (fun w => { w with
    mode := mode, duty := duty, dutyTarget := target, keepAlive := some 0, stall := some 0, pause := some 0, ramp := some 0 })
    (working .windlass ph .wHaul s)

/-- A platform in any phase; one that runs with its outputs, and a windlass that drives at duty 500. -/
theorem witness_StopsEndMotion (ph : AxisPhase) (dir : Option Motion) :
    let s := at' fun s => asked .command [24, 1] (poised .platform ph dir .between false 0 s)
    let u := at' fun s => asked .command [25] (windlassRuns .wHaul .manualHaul 500 (platformRuns s))
    s.Head (ask .command [24, 1]) [] ∧ (ask .command [24, 1]).payload = 24 :: BitVec.ofNat 8 (axisCode .platform) :: [] ∧
      s.store.commitPending = false ∧ (s.axis .platform).phase = ph ∧ u.Head (ask .command [25]) [] ∧
      u.store.commitPending = false ∧ (u.axis .platform).phase = .running ∧ u.axisField .platform AxisTable.lag ≠ 0 ∧
      u.noneStarting ∧ (u.axis .windlass).phase = .running ∧ u.axisField .windlass AxisTable.rampTime ≠ 0 ∧
      u.wl.duty ≠ 0 ∧ (at' fun s => asked .command [24, 0] (driving .running .footHaul 5 900 s)).footRun = true := by
  have f : yard.axisField .platform AxisTable.lag ≠ 0 ∧ yard.axisField .windlass AxisTable.rampTime ≠ 0 := by decide +kernel
  exact ⟨⟨rfl, rfl⟩, rfl, rfl, rfl, ⟨rfl, rfl⟩, rfl, rfl, f.1, fun a => by cases a <;> decide, rfl, f.2, by decide, rfl⟩

/-- A platform FAULTED with any cause, its sensors in conflict or not; a windlass FAULTED by the over-current, which stands
or not; the e-stop latch with its input active or not. -/
theorem witness_ClearsFaultAndEstop (c : Cause) (b : List Byte) (deck oc latch inp : Bool) :
    let s := calm fun s => asked .command b (withInput 0 true (withInput 1 deck (faulted c s)))
    let u := calm fun s => asked .command b
      { (s.mapAxis .windlass fun x => { x with phase := .faulted, cause := .overcurrent }) with
        inp := { s.inp with overActive := oc } }
    let v := calm fun s => asked .command b { s with
      axes := { s.axes with latch := latch }, inp := { s.inp with estopActive := inp } }
    s.Calm ∧ s.Head (ask .command b) [] ∧ (s.axis .platform).phase = .faulted ∧ (s.axis .platform).cause = c ∧
      s.fitted .platform = true ∧ s.conflict .platform = deck ∧ u.Calm ∧ u.Head (ask .command b) [] ∧
      (u.axis .windlass).phase = .faulted ∧ u.fitted .windlass = true ∧ (u.axis .windlass).cause = .overcurrent ∧
      u.inp.overActive = oc ∧ (u.axis .platform).phase ≠ .faulted ∧ v.Calm ∧ v.Head (ask .command b) [] ∧
      v.axes.latch = latch ∧ v.inp.estopActive = inp := by
  have fitP : yard.fitted .platform = true := by decide +kernel
  have fitW : yard.fitted .windlass = true := by decide +kernel
  exact ⟨calm_of _ rfl, ⟨rfl, rfl⟩, rfl, rfl, fitP, by cases deck <;> rfl, calm_of _ rfl, ⟨rfl, rfl⟩, rfl, fitW, rfl, rfl,
    (by decide : AxisPhase.idle ≠ .faulted), calm_of _ rfl, ⟨rfl, rfl⟩, rfl, rfl⟩

/-- A FAULTED platform, its cause gone, is the last axis outside IDLE while a commit is pending. -/
theorem witness_ClearsFaultAndEstop_pending (l : List Byte) :
    let b := 26 :: BitVec.ofNat 8 (axisCode .platform) :: l
    let s := waiting fun s => asked .command b (faulted .timeout s)
    s.Quiet ∧ s.Head (ask .command b) [] ∧ s.store.commitPending = true ∧ (s.axis .platform).phase = .faulted ∧
      (∀ a, a ≠ .platform → (s.axis a).phase = .idle) ∧ s.fitted .platform = true ∧ s.causeStands .platform = false := by
  have fit : yard.fitted .platform = true := by decide +kernel
  refine ⟨waiting_quiet (calm_of _ rfl), ⟨rfl, rfl⟩, rfl, rfl, fun a h => ?_, fit, rfl⟩
  cases a
  · rfl
  · exact absurd rfl h
  · rfl

/-- The platform under way at the yard is safe. -/
theorem platformRuns_safe : (at' platformRuns).MotionSafe where
  power := fun h => absurd rfl h
  fitted := fun a h => by
    cases a
    · exact absurd rfl h
    · show yard.fitted .platform = true
      decide +kernel
    · exact absurd rfl h
  direction := fun a h => by
    cases a
    · rcases h with h | h | h <;> exact absurd h (by decide)
    · exact ⟨.pUp, rfl, rfl⟩
    · rcases h with h | h | h <;> exact absurd h (by decide)
  latch := fun h => absurd h (by decide)
  duty := fun h => absurd rfl h
  bridge := fun h => absurd rfl h
  platformUp := fun _ => ⟨.inl rfl, rfl⟩
  platformDown := fun h => absurd h (by decide)
  hatchOpen := fun h => absurd h (by decide)
  hatchClose := fun h => absurd h (by decide)
  pump := fun _ => ⟨.platform, rfl, rfl⟩
  holder := fun h k => by
    cases h
    · rfl
    · rcases k with k | k <;> exact absurd k (by decide)
  pumpOnce := by decide

theorem witness_EstopAndOvercurrentStopMotion (n : Nat) :
    let s := at' platformRuns
    let u := calm fun s => { s with axes := { s.axes with latch := true }, inp := { s.inp with estopActive := true } }
    let v := at' (windlassRuns .wHaul .manualHaul (n + 1))
    s.power = .running ∧ s.axes.latch = false ∧ s.MotionSafe ∧ s.store.commitPending = false ∧ u.power = .running ∧
      u.axes.latch = true ∧ u.Calm ∧ v.power = .running ∧ (v.axis .windlass).phase = .running ∧ 0 < v.wl.duty ∧
      v.store.commitPending = false ∧ (yard.axis .windlass).phase = .idle :=
  ⟨rfl, rfl, platformRuns_safe, rfl, rfl, rfl, calm_of _ rfl, rfl, rfl, Nat.succ_pos n, rfl, rfl⟩

/-- The e-stop group is group 5; its stack is empty, has room, or is full with a lowest entry unlocked or locked; the platform
runs, and so its override is to leave. -/
theorem witness_EstopAndOvercurrentStopMotion_override (st : List Override) :
    let s := at' fun s => governed 5 st (platformRuns s)
    s.power = .running ∧ s.axes.latch = false ∧ s.store.commitPending = false ∧ (s.axis .platform).busy ∧
      groupOf (s.zone Zone.estopGroup) = some 5 ∧ s.groups[(5 : Fin 12)].stack = st ∧
      (∀ lock, fourEntries lock = (fourEntries lock).take 3 ++ [⟨4, 1, 40, lock⟩]) ∧ ((fourEntries true).take 3).length = 3 ∧
      ∀ y ∈ fourEntries true, y.source < 16 := by
  have f : groupOf (yard.zone Zone.estopGroup) = some 5 := by decide +kernel
  exact ⟨rfl, rfl, rfl, .inr (.inl rfl), f, rfl, fun lock => by cases lock <;> rfl, rfl, by decide⟩

/-- An axis that waits, with its window at any count, and one that runs with its start time. -/
theorem witness_StartTimersExpire (adm : Bool) (n : Nat) :
    let s := at' fun s => s.mapAxis .hatch fun x => { x with phase := .starting, window := some n, admitted := adm }
    let u := calm fun s => s.mapAxis .hatch fun x => { x with phase := .running, startTime := some n }
    (s.axis .hatch).phase = .starting ∧ (s.axis .hatch).window.isSome = true ∧ s.store.commitPending = false ∧
      (s.axis .hatch).admitted = adm ∧ u.Calm ∧ (u.axis .hatch).phase = .running ∧
      (u.axis .hatch).startTime.isSome = true :=
  ⟨rfl, rfl, rfl, rfl, calm_of _ rfl, rfl, rfl⟩

theorem witness_HydraulicTimersExpire :
    let s := calm fun s => (platformRuns s).mapAxis .platform fun x => { x with lead := some 0, travel := some 0 }
    let u := calm fun s => (platformRuns s).mapAxis .platform fun x => { x with phase := .stopping, lag := some 0 }
    (s.axis .platform).phase = .running ∧ (s.axis .platform).lead.isSome = true ∧
      (s.axis .platform).travel.isSome = true ∧ s.Calm ∧ s.holdsPump .platform = true ∧ u.Calm ∧
      (u.axis .platform).phase = .stopping ∧ (u.axis .platform).lag.isSome = true :=
  ⟨rfl, rfl, rfl, calm_of _ rfl, rfl, calm_of _ rfl, rfl, rfl⟩

/-- The hatch, admitted, waits in STARTING to open behind the platform, which runs or stops. -/
theorem witness_HydraulicTimersExpire_grant (ph : AxisPhase) :
    let s := at' fun s =>
      let u := ((platformRuns s).mapAxis .platform fun x => { x with phase := ph, lag := some 0, travel := some 0 })
      let v := (working .hatch .starting .hOpen u).mapAxis .hatch fun x => { x with target := some .opened }
      { v with axes := { v.axes with pumpList := [.platform, .hatch] } }
    s.power = .running ∧ s.store.commitPending = false ∧ s.axes.pumpList = [.platform, .hatch] ∧
      (s.axis .platform).phase = ph ∧ (s.axis .platform).lag.isSome = true ∧ (s.axis .platform).travel.isSome = true ∧
      (s.axis .hatch).phase = .starting ∧ (s.axis .hatch).admitted = true ∧ (s.axis .hatch).dir = some .hOpen ∧
      Motion.hOpen.axis = .hatch ∧ (s.axis .hatch).target = some .opened ∧ s.conflict .hatch = false ∧
      s.input (targetSensor .opened) = false :=
  ⟨rfl, rfl, rfl, rfl, rfl, rfl, rfl, rfl, rfl, rfl, rfl, rfl, rfl⟩

/-- The stopping platform is the last axis outside IDLE while a commit is pending. -/
theorem witness_HydraulicTimersExpire_pending :
    let s := waiting fun s => (platformRuns s).mapAxis .platform fun x => { x with phase := .stopping, lag := some 0 }
    s.Quiet ∧ s.store.commitPending = true ∧ (∀ b, b ≠ .platform → (s.axis b).phase = .idle) ∧
      (s.axis .platform).phase = .stopping ∧ (s.axis .platform).lag.isSome = true := by
  refine ⟨waiting_quiet (calm_of _ rfl), rfl, fun b h => ?_, rfl, rfl⟩
  cases b
  · rfl
  · exact absurd rfl h
  · rfl

theorem witness_WindlassTimersExpire (d : Nat) :
    let s := fun ph mode => at' (driving ph mode d d)
    let u := calm (driving .running .haulHome d d)
    (∀ ph mode, (s ph mode).store.commitPending = false ∧ (s ph mode).wl.keepAlive.isSome = true ∧
      (s ph mode).wl.mode = mode ∧ ((s ph mode).axis .windlass).phase = ph ∧
      (s ph mode).axisField .windlass AxisTable.rampTime ≠ 0 ∧ (s ph mode).wl.duty = d ∧
      (s ph mode).wl.stall.isSome = true ∧ (s ph mode).wl.pause.isSome = true ∧
      ((s ph mode).axis .windlass).admitted = true ∧ (s ph mode).inp.overActive = false) ∧
      u.Calm ∧ u.wl.keepAlive.isSome = true ∧ u.wl.mode = .haulHome ∧ (u.axis .windlass).phase = .running ∧
      u.wl.stall.isSome = true ∧ u.wl.pause.isSome = true ∧ u.wl.duty = d := by
  have f : yard.axisField .windlass AxisTable.rampTime ≠ 0 := by decide +kernel
  exact ⟨fun ph mode => ⟨rfl, rfl, rfl, rfl, f, rfl, rfl, rfl, rfl, rfl⟩, calm_of _ rfl, rfl, rfl, rfl, rfl, rfl, rfl⟩

/-- The timers in STOPPING; and the end of a reversal pause for which an admitted windlass waits at duty 0. -/
theorem witness_WindlassTimersExpire_waits (d : Nat) :
    let s := calm (driving .stopping .manualHaul (d + 1) 0)
    let u := at' (driving .starting .manualPayout 0 0)
    s.Calm ∧ s.wl.keepAlive.isSome = true ∧ (s.axis .windlass).phase = .stopping ∧ s.wl.pause.isSome = true ∧
      u.store.commitPending = false ∧ u.wl.pause.isSome = true ∧ (u.axis .windlass).phase = .starting ∧
      (u.axis .windlass).admitted = true ∧ u.wl.duty = 0 ∧ u.axisField .windlass AxisTable.rampTime ≠ 0 ∧
      u.windlassReached u.wl.mode u.wl.payTarget = false := by
  have f : yard.axisField .windlass AxisTable.rampTime ≠ 0 := by decide +kernel
  exact ⟨calm_of _ rfl, rfl, rfl, rfl, rfl, rfl, rfl, rfl, rfl, f, rfl⟩

/-- A step in RUNNING that leaves duty 0, with the over-current input at any level. -/
theorem witness_RampStepMovesTheDuty_begins (t : Nat) (oc : Bool) :
    let s := calm fun s => { driving .running .manualHaul 0 (t + 1) s with inp := { s.inp with overActive := oc } }
    s.Calm ∧ s.wl.ramp.isSome = true ∧ s.axisField .windlass AxisTable.rampTime ≠ 0 ∧
      (s.axis .windlass).phase = .running ∧ s.wl.duty = 0 ∧ s.wl.dutyTarget ≠ 0 ∧ s.inp.overActive = oc := by
  have f : yard.axisField .windlass AxisTable.rampTime ≠ 0 := by decide +kernel
  exact ⟨calm_of _ rfl, rfl, f, rfl, rfl, Nat.succ_ne_zero t, rfl⟩

/-- The step is 10: from 895 toward 900 it stops at the target; in STOPPING the duty 10 comes to 0, and 11 to 1. -/
theorem witness_RampStepMovesTheDuty (d t : Nat) :
    let s := calm (driving .running .manualHaul (d + 1) t)
    let u := calm (driving .stopping .manualHaul (d + 1) 0)
    let delta := max 1 (10000 / s.axisField .windlass AxisTable.rampTime)
    s.Calm ∧ s.wl.ramp.isSome = true ∧ s.axisField .windlass AxisTable.rampTime ≠ 0 ∧ s.wl.duty ≠ 0 ∧
      (s.axis .windlass).phase = .running ∧ u.Calm ∧ (u.axis .windlass).phase = .stopping ∧ u.wl.ramp.isSome = true ∧
      u.wl.duty = d + 1 ∧ delta = 10 ∧ min 900 (895 + delta) = 900 ∧ max 0 (10 - delta) = 0 ∧ max 0 (11 - delta) = 1 := by
  have f : yard.axisField .windlass AxisTable.rampTime = 1000 := by decide +kernel
  have g : max 1 (10000 / yard.axisField .windlass AxisTable.rampTime) = 10 := by
    rw [f]
    decide
  refine ⟨calm_of _ rfl, rfl, ?_, Nat.succ_ne_zero d, rfl, calm_of _ rfl, rfl, rfl, rfl, g, ?_, ?_, ?_⟩
  · show yard.axisField .windlass AxisTable.rampTime ≠ 0
    rw [f]
    decide
  · exact (congrArg (fun x => min 900 (895 + x)) g).trans (by decide)
  · exact (congrArg (fun x => max 0 (10 - x)) g).trans (by decide)
  · exact (congrArg (fun x => max 0 (11 - x)) g).trans (by decide)

/-- CHAIN_SET at an idle windlass and in a foot run; a pulse and both changes of the home input, with the windlass in any
phase. -/
theorem witness_ChainCounterFollowsTheChain (ph : AxisPhase) (x y z : Byte) (home : Bool) :
    let s := calm (asked .command [12, x, y, z])
    let u := calm fun s => asked .command [12, x, y, z] (driving .running .footHaul 0 0 s)
    let v := at' fun s => withInput homeInput home (poised .windlass ph (some .wHaul) .out false 0 s)
    s.power = .running ∧ s.Calm ∧ s.Head (ask .command [12, x, y, z]) [] ∧ s.footRun = false ∧
      u.power = .running ∧ u.Calm ∧ u.Head (ask .command [12, x, y, z]) [] ∧ u.footRun = true ∧ v.power = .running ∧
      v.store.commitPending = false ∧ v.input homeInput = home ∧ (v.axis .windlass).phase = ph ∧
      (v.axis .windlass).dir = some .wHaul ∧ (ph ≠ .starting → v.noneStarting) :=
  ⟨rfl, calm_of _ rfl, ⟨rfl, rfl⟩, rfl, rfl, calm_of _ rfl, ⟨rfl, rfl⟩, rfl, rfl, rfl, rfl, rfl, rfl, fun h a => by
    cases a
    · exact h
    · exact (by decide : AxisPhase.idle ≠ .starting)
    · exact (by decide : AxisPhase.idle ≠ .starting)⟩

/-- CHAIN_SET and a pulse in a run to a target that the counter then reaches or not, at a duty and at duty 0, and in a haul at
and above the slow zone; the pocket length moves the counter. -/
theorem witness_ChainCounterFollowsTheChain_run (b : List Byte) (mode : WindlassMode) (m : Motion) (duty target n : Nat)
    (ref : Bool) :
    let s := calm fun s => asked .command b (withWl (fun w => { w with payTarget := target, counter := n, referenced := ref })
      ((driving .running mode duty duty s).mapAxis .windlass fun x => { x with dir := some m }))
    s.power = .running ∧ s.Calm ∧ s.Head (ask .command b) [] ∧ (s.axis .windlass).phase = .running ∧
      (s.axis .windlass).dir = some m ∧ s.axisField .windlass AxisTable.rampTime ≠ 0 ∧ s.wl.mode = mode ∧
      s.wl.payTarget = target ∧ s.wl.duty = duty ∧ s.wl.counter = n ∧ s.wl.referenced = ref ∧ s.store.commitPending = false ∧
      s.axisField .windlass AxisTable.pocket ≠ 0 := by
  have f : yard.axisField .windlass AxisTable.rampTime ≠ 0 ∧ yard.axisField .windlass AxisTable.pocket ≠ 0 := by
    decide +kernel
  exact ⟨rfl, calm_of _ rfl, ⟨rfl, rfl⟩, rfl, rfl, f.1, rfl, rfl, rfl, rfl, rfl, rfl, f.2⟩

/-- The platform, or the hatch, in RUNNING or STOPPING toward any target, with none of its sensors active before. -/
theorem witness_EndSensorsGiveThePosition (h : Hyd) (ph : AxisPhase) (hp : ph = .running ∨ ph = .stopping) (t : Target) :
    let s := calm fun s => s.mapAxis (hydAxis h) fun x => { x with phase := ph, dir := some .pUp, target := some t }
    s.Calm ∧ s.fitted (hydAxis h) = true ∧ s.axisField (hydAxis h) AxisTable.lag ≠ 0 ∧ (s.axis (hydAxis h)).phase = ph ∧
      (s.axis (hydAxis h)).target = some t ∧ (∀ u, s.input (targetSensor u) = false) ∧ (yard.fitted (hydAxis h)) = true := by
  have f : ∀ h, yard.fitted (hydAxis h) = true ∧ yard.axisField (hydAxis h) AxisTable.lag ≠ 0 := by
    intro h
    cases h <;> decide +kernel
  refine ⟨calm_of _ ?_, ?_, ?_, by cases h <;> rfl, by cases h <;> rfl, fun u => ?_, (f h).1⟩
  · rcases hp with rfl | rfl <;> cases h <;> rfl
  · cases h
    · exact (f .platform).1
    · exact (f .hatch).1
  · cases h
    · exact (f .platform).2
    · exact (f .hatch).2
  · cases h <;> cases u <;> rfl

/-- The feet of the yard's tables: no entry reads them. -/
theorem yard_feet : ∀ e : Fin 24, yard.namesFeet .both e = false := by decide +kernel

/-- Neither switch held, or the other one; a start that fits, one that does not, and one that the latch refuses. -/
theorem witness_FootPressStartsTheWindlass (latch held : Bool) :
    let s := calm fun s => withInput footDownInput held { s with axes := { s.axes with latch := latch } }
    let u := calm fun s => { s with store := { s.store with active := tables.drop 6 } }
    FootSide .up footUpInput footDownInput .footHaul .wHaul ∧ s.Calm ∧ (∀ e : Fin 24, s.namesFeet .both e = false) ∧
      s.input footUpInput = false ∧ s.input footDownInput = held ∧ s.spent .up = false ∧ (s.axis .windlass).phase = .idle ∧
      s.wl.mode = .none ∧ s.fitted .windlass = true ∧ s.axes.latch = latch ∧ s.blocked .wHaul = false ∧
      s.input homeInput = false ∧ (calm (asked .command [])).fits .windlass ∧ s.wl.pause = none ∧ s.wl.duty = 0 ∧
      s.axisField .windlass AxisTable.rampTime ≠ 0 ∧ u.Calm ∧ ¬ (short []).fits .windlass ∧
      u.axisField .windlass AxisTable.window ≠ 0 ∧ u.fitted .windlass = true := by
  have f : yard.fitted .windlass = true ∧ yard.axisField .windlass AxisTable.rampTime ≠ 0 := by decide +kernel
  have g : (short []).axisField .windlass AxisTable.window ≠ 0 ∧ (short []).fitted .windlass = true := by decide +kernel
  exact ⟨.up, calm_of _ rfl, yard_feet, rfl, rfl, rfl, rfl, rfl, f.1, rfl, inSet_none _, rfl, calm_fits [] _, rfl, rfl, f.2,
    calm_of _ rfl, short_fits [] _, g.1, g.2⟩

/-- A press during a command run or start, the other switch free, and one during a foot run or start, the other switch held;
and a press while the windlass stops. -/
theorem witness_FootPressStartsTheWindlass_runs (ph : AxisPhase) (d : Nat) :
    let s := at' (driving ph .manualHaul (d + 1) 900)
    let u := at' fun s => withInput footDownInput true (driving ph .footPayout (d + 1) 900 s)
    let v := calm (driving .stopping .manualHaul (d + 1) 0)
    s.power = .running ∧ s.store.commitPending = false ∧ (∀ e : Fin 24, s.namesFeet .both e = false) ∧
      s.input footUpInput = false ∧ s.input footDownInput = false ∧ s.spent .up = false ∧ s.wl.mode.foot = false ∧
      (s.axis .windlass).phase = ph ∧ s.axisField .windlass AxisTable.rampTime ≠ 0 ∧ s.wl.duty ≠ 0 ∧ u.power = .running ∧
      u.store.commitPending = false ∧ (∀ e : Fin 24, u.namesFeet .both e = false) ∧ u.input footUpInput = false ∧
      u.input footDownInput = true ∧ u.wl.mode.foot = true ∧ (u.axis .windlass).phase = ph ∧
      u.axisField .windlass AxisTable.rampTime ≠ 0 ∧ u.wl.duty ≠ 0 ∧ v.Calm ∧ v.input footDownInput = false ∧
      v.spent .up = false ∧ (v.axis .windlass).phase = .stopping := by
  have f : yard.axisField .windlass AxisTable.rampTime ≠ 0 := by decide +kernel
  exact ⟨rfl, rfl, yard_feet, rfl, rfl, rfl, rfl, rfl, f, Nat.succ_ne_zero d, rfl, rfl, yard_feet, rfl, rfl, rfl, rfl, f,
    Nat.succ_ne_zero d, calm_of _ rfl, rfl, rfl, rfl⟩

/-- The switch held alone or with the other; its run STARTING, or RUNNING at a duty. -/
theorem witness_FootReleaseEndsTheRun (ph : AxisPhase) (d : Nat) (held : Bool) :
    let s := at' fun s => withInput footUpInput true (withInput footDownInput held (driving ph .footHaul (d + 1) 900 s))
    FootSide .up footUpInput footDownInput .footHaul .wHaul ∧ s.power = .running ∧ s.store.commitPending = false ∧
      (∀ e : Fin 24, s.namesFeet .both e = false) ∧ s.input footUpInput = true ∧ s.input footDownInput = held ∧
      s.wl.mode = .footHaul ∧ (s.axis .windlass).phase = ph ∧ s.axisField .windlass AxisTable.rampTime ≠ 0 ∧
      s.wl.duty ≠ 0 := by
  have f : yard.axisField .windlass AxisTable.rampTime ≠ 0 := by decide +kernel
  exact ⟨.up, rfl, rfl, yard_feet, rfl, rfl, rfl, rfl, f, Nat.succ_ne_zero d⟩

/-- Permit entry 4 reads the up switch and gates W_HAUL; the windlass waits in that motion, or runs in it; both switches are
free, or held. -/
theorem witness_FootChangeReachesThePermits (ph : AxisPhase) (held : Bool) :
    let s := at' fun s => withInput footUpInput held (withInput footDownInput held
      { driving ph .manualHaul 5 900 s with store := { s.store with active := cells .permit 4 [(0, 129), (1, 4), (10, 1)] } })
    s.power = .running ∧ s.store.commitPending = false ∧ (∀ i ∈ feetInputs .both, s.input i = held) ∧
      s.namesFeet .up 4 = true ∧ s.permitField 4 PermitTable.kind = 1 ∧
      permitInput (s.permitField 4 PermitTable.subject) = some footUpInput ∧ s.permitField 4 PermitTable.enabled ≠ 0 ∧
      (s.permitField 4 PermitTable.gated).testBit Motion.wHaul.bit = true ∧ s.namesFeet .up 3 = false ∧
      (s.axis .windlass).dir = some .wHaul ∧ (s.axis .windlass).phase = ph := by
  cases held <;> cases ph <;> decide +kernel

/-- A bridge cycle and a period; and a count of the base that steps the banks, with one of them at the last count of its
period. -/
theorem witness_OutputCyclesStart :
    let s := at' fun s => { s with
      clock := 4239, out := { s.out with banks := #v[⟨0, false, 1000⟩, ⟨999, false, 1000⟩, ⟨7, false, 1000⟩] } }
    (at' (windlassRuns .wHaul .manualHaul 500)).out.bridge.dir.isSome = true ∧ yard.power = .running ∧
      (23 : Fin 24).val / 8 = (2 : Fin 3).val ∧ State.reset.power ≠ .running ∧ s.pending = [] ∧ s.power = .running ∧
      s.due = [] ∧ s.clock % 10 = 9 ∧ s.clock < 10000 ∧
      s.out.banks[(0 : Fin 3)].counter + 1 < s.out.banks[(0 : Fin 3)].period ∧
      ¬ s.out.banks[(1 : Fin 3)].counter + 1 < s.out.banks[(1 : Fin 3)].period := by
  decide +kernel

theorem witness_BridgeNeverShootsThrough :
    0 < 5 ∧ (⟨none, 0, 0⟩ : Bridge).dir = none ∧ (⟨some .wPayout, 0, 9⟩ : Bridge).dir = some .wPayout ∧
      (⟨some .wHaul, 0, 9⟩ : Bridge).dir = some .wHaul ∧
      ((⟨some .wHaul, 30, 100⟩ : Bridge).switches 5 500).bHigh = true := by
  decide

/-! #### Tables -/

/-- The last place of a table, and each step mode; a cursor already at work, with and without bytes held. -/
theorem witness_CursorAndDiscard (asm : List Byte) (l : List Byte) :
    let b := [64, 5, 0, 11, 2]
    let s := calm fun s => asked .setup b { s with exe := { s.exe with assembly := asm } }
    let u := waiting fun s => asked .setup (68 :: l) { s with exe := { s.exe with assembly := asm } }
    let v := calm fun s => asked .setup (68 :: l) { s with exe := { s.exe with assembly := asm } }
    s.Calm ∧ s.Head (ask .setup b) [] ∧ (5 : Byte).toNat = Table.group.code ∧ StepMode.ofCode (2 : Byte).toNat = some .hold ∧
      (0 : Byte).toNat * 256 + (11 : Byte).toNat < Table.group.entries ∧ s.exe.assembly = asm ∧ u.Quiet ∧
      u.Head (ask .setup (68 :: l)) [] ∧ u.store.commitPending = true ∧ v.Quiet ∧ v.Head (ask .setup (68 :: l)) [] ∧
      v.store.commitPending = false :=
  ⟨calm_of _ rfl, ⟨rfl, rfl⟩, rfl, rfl, by decide, rfl, waiting_quiet (calm_of _ rfl), ⟨rfl, rfl⟩, rfl,
    (calm_of _ rfl).toQuiet, ⟨rfl, rfl⟩, rfl⟩

/-- The tables of the yard are in canonical form. -/
theorem tables_wf : Memory.wf tables = true := by decide +kernel

/-- A cursor at the last group, with three bytes held, and data that completes the entry, that goes 5 bytes beyond it, or that does not fill it; a save under way; and
WATCH_LIVE. -/
theorem witness_WriteFillsTheShadowEntry (b : List Byte) (ctx : Option Request) :
    let at_ := fun (c : Cursor) (asm : List Byte) => calm fun s => asked .setup (65 :: b)
      { s with exe := { s.exe with cursor := c, assembly := asm, saveCtx := ctx } }
    let s := fun m => at_ ⟨.group, 11, m⟩ [1, 2, 3]
    let u := at_ ⟨.watchLive, 31, .inc⟩ []
    (∀ m, (s m).Calm ∧ (s m).MemoryWf ∧ (s m).Head (ask .setup (65 :: b)) [] ∧ (s m).exe.saveCtx = ctx ∧
      (s m).exe.cursor = ⟨.group, 11, m⟩ ∧ (s m).exe.assembly = [1, 2, 3]) ∧
      u.Calm ∧ u.MemoryWf ∧ u.Head (ask .setup (65 :: b)) [] ∧ u.exe.saveCtx = ctx ∧ u.exe.cursor.table = .watchLive ∧
      ([1, 2, 3] ++ ([9] : List Byte).take 6).length = Table.group.entryBytes ∧
      Table.group.entryBytes < ([1, 2, 3] ++ ([9, 8, 7, 6, 5, 4, 3] : List Byte).take 6).length ∧
      ([] ++ ([9, 8, 7] : List Byte).take 6).length < Table.group.entryBytes :=
  ⟨fun m => ⟨calm_of _ rfl, ⟨(by decide : 11 < Table.group.entries), (by decide : 3 < Table.group.entryBytes), tables_wf,
      tables_wf, rfl⟩, ⟨rfl, rfl⟩, rfl, rfl, rfl⟩,
    calm_of _ rfl, ⟨(by decide : 31 < Table.watchLive.entries), (by decide : 0 < Table.watchLive.entryBytes), tables_wf,
      tables_wf, rfl⟩, ⟨rfl, rfl⟩, rfl, rfl, by decide, by decide, by decide⟩

/-- A first and a last chunk of an AXIS entry, which has 32 bytes; WATCH_LIVE; and an assembly that holds bytes. -/
theorem witness_ReadAnswersTheLatchedEntry (n : Nat) (t : Table) (asm l : List Byte) :
    let s := calm fun s => asked .setup (66 :: 1 :: l)
      { s with exe := { s.exe with cursor := ⟨t, 0, .inc⟩, readOffset := n, latched := [1], assembly := asm } }
    s.Calm ∧ s.Head (ask .setup (66 :: 1 :: l)) [] ∧ (1 : Byte).toNat ≤ 1 ∧ s.exe.assembly = asm ∧ s.exe.readOffset = n ∧
      s.exe.cursor.table = t ∧ s.exe.cursor.index = (0 : Fin 32).val ∧ Table.axis.entryBytes ≤ 6 * (5 + 1) ∧
      6 * (4 + 1) < Table.axis.entryBytes :=
  ⟨calm_of _ rfl, ⟨rfl, rfl⟩, by decide, rfl, rfl, rfl, rfl, by decide, by decide⟩

/-- Every axis IDLE, or one RUNNING, with and without a commit pending and a save under way. -/
theorem witness_CommitAppliesOrWaits (l : List Byte) (ctx : Option Request) :
    let f := fun s => asked .setup (67 :: l) { s with exe := { s.exe with saveCtx := ctx } }
    let s := calm f
    let u := calm fun s => f (platformRuns s)
    let v := waiting fun s => f (platformRuns s)
    s.Quiet ∧ s.Head (ask .setup (67 :: l)) [] ∧ s.store.commitPending = false ∧ s.exe.saveCtx = ctx ∧
      (∀ a, (s.axis a).phase = .idle) ∧ u.Quiet ∧ u.Head (ask .setup (67 :: l)) [] ∧ u.exe.saveCtx = ctx ∧
      (u.axis .platform).phase ≠ .idle ∧ v.Quiet ∧ v.Head (ask .setup (67 :: l)) [] ∧ v.store.commitPending = true ∧
      v.exe.saveCtx = ctx ∧ (v.axis .platform).phase ≠ .idle :=
  ⟨(calm_of _ rfl).toQuiet, ⟨rfl, rfl⟩, rfl, rfl, fun a => by cases a <;> rfl, (calm_of _ rfl).toQuiet, ⟨rfl, rfl⟩, rfl,
    (by decide : AxisPhase.running ≠ .idle), waiting_quiet (calm_of _ rfl), ⟨rfl, rfl⟩, rfl, rfl,
    (by decide : AxisPhase.running ≠ .idle)⟩

theorem witness_SaveIsAnsweredAtItsCompletion (asm l : List Byte) (ctx : Option Request) :
    let s := calm fun s => asked .setup (69 :: l) { s with exe := { s.exe with saveCtx := ctx, assembly := asm } }
    s.Calm ∧ s.Head (ask .setup (69 :: l)) [] ∧ (69 :: l).head? = some 69 ∧ s.exe.saveCtx = ctx ∧ s.exe.assembly = asm :=
  ⟨calm_of _ rfl, ⟨rfl, rfl⟩, rfl, rfl, rfl⟩

theorem witness_ResetBringsTheZoneResetState (l : List Byte) (ctx : Option Request) :
    let s := calm fun s => asked .setup (70 :: l) { s with exe := { s.exe with saveCtx := ctx } }
    s.Head (ask .setup (70 :: l)) [] ∧ s.exe.saveCtx = ctx ∧ s.Calm :=
  ⟨⟨rfl, rfl⟩, rfl, calm_of _ rfl⟩

/-- The platform under way, with a command that waits: each invariant holds, and the step answers a next state. -/
theorem witness_EveryStep :
    let s : State := { at' platformRuns with pending := [.estopFall] }
    s.MemoryWf ∧ s.QueuesOk ∧ s.MotionSafe ∧ ∃ t, step s = .next t := by
  have h := platformRuns_safe
  refine ⟨⟨(by decide : 0 < Table.zone.entries), (by decide : 0 < Table.zone.entryBytes), tables_wf, tables_wf, rfl⟩,
    ⟨fun p => ?_, Nat.zero_le 8, List.Pairwise.nil⟩,
    ⟨h.power, h.fitted, h.direction, h.latch, h.duty, h.bridge, h.platformUp, h.platformDown, h.hatchOpen, h.hatchClose,
      h.pump, h.holder, h.pumpOnce⟩, _, rfl⟩
  have q : (PortState.initial false).QueuesOk :=
    ⟨fun _ => by decide, fun k => absurd k (by decide), Nat.zero_le 16, Nat.zero_le 12, List.Pairwise.nil,
      fun e k => absurd k List.not_mem_nil, fun k => absurd k (by decide), fun k => absurd k (by decide)⟩
  cases p <;> exact q

end Sys2Proof.Machine.Slice0
end

section
/-! PROOF. The table verbs CURSOR and DISCARD (R74, R77, R84): what the work of each does to the state that its taking finds,
and that nothing but publication and the reply follows it. -/

namespace Sys2Proof.Machine

/-! ### Raised flags stand through publication and replies -/

/-- Every flag raised in `s` stands in `t`. -/
def FlagsKept (s t : State) : Prop := ∀ e : Event, s.raised e = true → t.raised e = true

theorem FlagsKept.refl (s : State) : FlagsKept s s := fun _ h => h

theorem FlagsKept.trans {s t u : State} (h : FlagsKept s t) (k : FlagsKept t u) : FlagsKept s u :=
  fun e x => k e (h e x)

theorem FlagsKept.of_events {s t : State} (h : t.exe.events = s.exe.events) : FlagsKept s t := by
  intro e he
  rwa [State.raised, h]

/-- What does not touch the event flags keeps them. -/
theorem Changes.flagsKept {l : List Part} {s t : State} (h : Changes l s t) (he : Part.events ∉ l) : FlagsKept s t :=
  .of_events (h .events he)

theorem raise_flagsKept (s : State) (e : Event) : FlagsKept s (s.raise e) := fun _ => raised_mono e

theorem mapPort_flagsKept (s : State) (p : Port) (f : PortState → PortState) : FlagsKept s (s.mapPort p f) :=
  .of_events (by rw [State.mapPort_exe])

theorem joinRecord_flagsKept (s : State) (p : Port) (r : Fin 7) : FlagsKept s (s.joinRecord p r) :=
  (joinRecord_changes s p r).flagsKept (by simp)

theorem setDue_flagsKept (s : State) (p : Port) (r : Fin 7) (v : Bool) : FlagsKept s (s.setDue p r v) :=
  (setDue_changes s p r v).flagsKept (by simp)

/-- A record that pushes out a reply raises REPLY_DROPPED and lets no flag fall. -/
theorem queueRecord_flagsKept (s : State) (p : Port) (r : Fin 7) : FlagsKept s (s.queueRecord p r) := by
  unfold State.queueRecord
  dsimp only
  split
  · exact mapPort_flagsKept _ _ _
  · split
    · exact .refl _
    · split
      · exact joinRecord_flagsKept _ _ _
      · split
        · exact .refl _
        · exact ((mapPort_flagsKept _ _ _).trans (raise_flagsKept _ _)).trans (joinRecord_flagsKept _ _ _)

theorem changeOnPort_flagsKept (s : State) (r : Fin 7) (x : Bool) (p : Port) : FlagsKept s (s.changeOnPort r x p) := by
  unfold State.changeOnPort
  split
  · split
    · exact queueRecord_flagsKept _ _ _
    · split
      · exact queueRecord_flagsKept _ _ _
      · exact setDue_flagsKept _ _ _ _
  · exact .refl _

theorem publishOne_flagsKept (s : State) (r : Fin 7) : FlagsKept s (s.publishOne r) := by
  unfold State.publishOne
  dsimp only
  split
  · exact .refl _
  · exact (((with_pubs s _).flagsKept (by simp)).trans (changeOnPort_flagsKept _ r _ .trunk)).trans
      (changeOnPort_flagsKept _ r _ .spur)

theorem publishAll_flagsKept (s : State) : FlagsKept s s.publishAll := by
  unfold State.publishAll
  generalize List.finRange 7 = l
  induction l generalizing s with
  | nil => exact .refl _
  | cons r l ih => exact (publishOne_flagsKept s r).trans (ih _)

theorem publish_flagsKept (s : State) : FlagsKept s s.publish := by
  unfold State.publish
  split
  · exact (publishAll_flagsKept s).trans (publishAll_flagsKept _)
  · exact .refl _

theorem answer_flagsKept (s : State) (r : Request) (res : Result) (d : List Byte) : FlagsKept s (s.answer r res d) := by
  unfold State.answer State.sendReply
  split
  · exact .refl _
  · split
    · exact raise_flagsKept _ _
    · exact mapPort_flagsKept _ _ _

/-! ### The end of a taking that leaves nothing to settle -/

theorem State.Quiet.evaluated {s : State} (h : s.Quiet) : s.Evaluated := ⟨h.noEval, h.requests⟩

/-- What touches neither requests, budget, groups nor the active bank leaves no evaluation owed. -/
theorem Changes.evaluated {l : List Part} {s t : State} (h : Changes l s t) (hr : Part.requests ∉ l)
    (hb : Part.budget ∉ l) (hg : Part.groups ∉ l) (ha : Part.active ∉ l) (hs : s.Evaluated) : t.Evaluated := by
  have budget : t.budget = s.budget := h .budget hb
  have requests : t.requests = s.requests := h .requests hr
  refine ⟨by rw [budget]; exact hs.1, fun c => ?_⟩
  rw [channelRequest_congr (h .active ha) (h .groups hg), ← hs.2 c]
  exact congrArg (fun v : Vector Nat 24 => v[c]) requests

theorem Changes.noneStarting {l : List Part} {s t : State} (h : Changes l s t) (ha : ∀ a, Part.axis a ∉ l)
    (hs : s.noneStarting) : t.noneStarting := by
  intro a
  rw [h.axis (ha a)]
  exact hs a

/-- Nothing settles where no axis is STARTING and no evaluation is owed. -/
theorem settle_of_evaluated {s : State} (hn : s.noneStarting) (he : s.Evaluated) : s.settle = s := by
  rw [settle_of_noneStarting hn, he.evalHandOn]

theorem conclude_of_evaluated {s : State} (hc : s.store.commitPending = false) (hn : s.noneStarting) (he : s.Evaluated)
    (r : Request) (res : Result) (d : List Byte) : s.conclude r res d = (s.publish.answer r res d).publish := by
  rw [State.conclude, finish_of_noCommit hc, settle_of_evaluated hn he]

/-! ### The taking of a table verb -/

/-- What the work of a table verb may change short of a commit: cursor and assembly, latched copy, shadow bank, pending mark
and event flags. -/
def tableParts : List Part := [.cursor, .latched, .shadow, .commit, .events]

/-- The taking of `r` from `s` has come to its end in `t`, where `u` is the state that the verb's work left: the work changed
the parts `l`, and after it came only publication and the reply with the code `res`. -/
structure TakenBy (s : State) (r : Request) (rest : List Request) (l : List Part) (u : State) (res : Result) (t : State) :
    Prop where
  intake : t.exe.intake = rest
  answered : Answered s t r res []
  changes : Changes (.intake :: l ++ published) s t
  after : Changes published u t
  flags : FlagsKept u t

/-- A table verb taken in a quiet state, whose work leaves no commit pending, has no consequence but publication and its
reply. -/
theorem takeVerb_takenBy {s u : State} {i : Instr} {r : Request} {rest : List Request} {l : List Part} {res : Result}
    {act : Request → State → State × Result} (hq : s.Quiet) (h : s.Head r rest) (hi : takingOf r = i)
    (hact : act r (s.afterTaking rest) = (u, res)) (hl : ∀ p ∈ l, p ∈ tableParts)
    (hu : Changes l (s.afterTaking rest) u) (hc : u.store.commitPending = false) :
    TakenBy s r rest l u res (s.takeVerb i act) := by
  have hw : Changes tableParts (s.afterTaking rest) u := hu.mono hl
  have hsu : Changes (.intake :: l) s u := (afterTaking_changes s rest).trans hu
  have hn : u.noneStarting := hw.noneStarting (by intro a; cases a <;> decide) (hq.afterTaking rest).noneStarting
  have he : u.Evaluated :=
    hw.evaluated (by decide) (by decide) (by decide) (by decide) (hq.afterTaking rest).evaluated
  have hlink : (u.port r.port).link = (s.port r.port).link := hw (.link r.port) (by cases r.port <;> decide)
  have hown : (u.port r.port).own = (s.port r.port).own := (hw (.own r.port) (by cases r.port <;> decide)).1
  have hafter : Changes published u (u.conclude r res []) := by
    rw [conclude_of_evaluated hc hn he]
    exact ((publish_changes u).seq (answer_published _ r res [])).seq (publish_changes _)
  rw [takeVerb_of_head h hi, hact]
  exact {
    intake := (conclude_intake hc r res []).trans (hw .intake (by decide)).1
    answered := conclude_answered hc (hw .node (by decide)) (congrArg (fun x => x.2.2.2.1) hlink)
      (congrArg List.length hown).le
    changes := hsu.trans hafter
    after := hafter
    flags := by
      rw [conclude_of_evaluated hc hn he]
      exact ((publish_flagsKept u).trans (answer_flagsKept _ r res [])).trans (publish_flagsKept _) }

/-! ### The cursor, the assembly and the latched copy -/

theorem abandon_changes (s : State) : Changes [.cursor, .events] s s.abandon := by
  have h : Changes [.cursor] s { s with exe := { s.exe with assembly := [] } } := by
    intro p hp
    cases p <;> first | exact absurd (by decide) hp | rfl | exact ⟨rfl, rfl⟩
  exact h.trans (raiseIf_changes _ _ _)

@[simp] theorem abandon_assembly (s : State) : s.abandon.exe.assembly = [] := by simp [State.abandon]

@[simp] theorem abandon_cursor (s : State) : s.abandon.exe.cursor = s.exe.cursor := by simp [State.abandon]

@[simp] theorem abandon_store (s : State) : s.abandon.store = s.store := by simp [State.abandon]

/-- Bytes that are abandoned raise WRITE_ABANDONED (R77). -/
theorem abandon_raised {s : State} (h : s.exe.assembly ≠ []) : s.abandon.raised .writeAbandoned = true := by
  simp [State.abandon, State.raiseIf, h]

theorem dropLatch_changes (s : State) : Changes [.latched] s s.dropLatch := by
  intro p hp
  cases p <;> first | exact absurd (by decide) hp | rfl | exact ⟨rfl, rfl⟩

theorem with_cursor (s : State) (c : Cursor) : Changes [.cursor] s { s with exe := { s.exe with cursor := c } } := by
  intro p hp
  cases p <;> first | exact absurd (by decide) hp | rfl | exact ⟨rfl, rfl⟩

/-! ### CURSOR -/

theorem exec_cursor (s : State) : exec .cursor s = execCursor s := rfl

@[simp] theorem Table.ofCode_code (t : Table) : Table.ofCode t.code = some t := by cases t <;> rfl

/-- The cursor placed, the assembly abandoned and the latched copy dropped (R74). -/
def State.placeCursor (s : State) (c : Cursor) : State :=
  { s.abandon.dropLatch with exe := { s.abandon.dropLatch.exe with cursor := c } }

/-- CURSOR with four arguments that name an entry of a table and a step mode places the cursor there. -/
theorem actCursor_of_args {r : Request} {k : Table} {m : StepMode} (s : State) (ha : r.hasArgs 4 = true)
    (hk : Table.ofCode (r.arg 1) = some k) (hm : StepMode.ofCode (r.arg 4) = some m) (hn : r.arg2 2 < k.entries) :
    actCursor r s = (s.placeCursor { table := k, index := r.arg2 2, mode := m }, .ok) := by
  simp only [actCursor, ha, hk, hm, hn, if_true]
  rfl

theorem placeCursor_changes (s : State) (c : Cursor) : Changes [.cursor, .events, .latched] s (s.placeCursor c) :=
  (((abandon_changes s).trans (dropLatch_changes _)).trans (with_cursor _ c)).mono (by simp)

@[simp] theorem placeCursor_assembly (s : State) (c : Cursor) : (s.placeCursor c).exe.assembly = [] := abandon_assembly s

theorem placeCursor_raised {s : State} (c : Cursor) (h : s.exe.assembly ≠ []) :
    (s.placeCursor c).raised .writeAbandoned = true := abandon_raised h

/-- The taking of a CURSOR whose arguments name an entry and a step mode. -/
theorem exec_cursor_takenBy {s : State} {r : Request} {rest : List Request} (hs : s.Calm) (h : s.Head r rest)
    (hi : takingOf r = .cursor) {k : Table} {m : StepMode} (ha : r.hasArgs 4 = true)
    (hk : Table.ofCode (r.arg 1) = some k) (hm : StepMode.ofCode (r.arg 4) = some m) (hn : r.arg2 2 < k.entries) :
    ∃ t, exec .cursor s = .next t ∧
      TakenBy s r rest [.cursor, .events, .latched]
        ((s.afterTaking rest).placeCursor { table := k, index := r.arg2 2, mode := m }) .ok t := by
  have hu := placeCursor_changes (s.afterTaking rest) { table := k, index := r.arg2 2, mode := m }
  have hc := (hu .commit (by decide)).trans hs.noCommit
  exact ⟨_, exec_cursor s,
    takeVerb_takenBy hs.toQuiet h hi (actCursor_of_args _ ha hk hm hn) (by decide) hu hc⟩

/-! ### DISCARD -/

theorem exec_discard (s : State) : exec .discard s = execDiscard s := rfl

/-- A pending commit cancelled: the assembly is abandoned and the shadow bank left (R84). -/
def State.cancelCommit (s : State) : State :=
  { s.abandon with store := { s.abandon.store with commitPending := false } }

/-- The assembly abandoned and the active bank copied whole into the shadow bank (R84). -/
def State.restoreShadow (s : State) : State :=
  { s.abandon with store := { s.abandon.store with shadow := s.abandon.store.active } }

theorem actDiscard_of_pending {s : State} (r : Request) (h : s.store.commitPending = true) :
    actDiscard r s = (s.cancelCommit, .ok) := by
  simp [actDiscard, State.cancelCommit, h]

theorem actDiscard_of_noCommit {s : State} (r : Request) (h : s.store.commitPending = false) :
    actDiscard r s = (s.restoreShadow, .ok) := by
  simp [actDiscard, State.restoreShadow, h]

theorem cancelCommit_changes (s : State) : Changes [.cursor, .events, .commit] s s.cancelCommit :=
  (abandon_changes s).trans (with_commit _ _)

theorem restoreShadow_changes (s : State) : Changes [.cursor, .events, .shadow] s s.restoreShadow :=
  (abandon_changes s).trans (with_shadow _ _)

/-- What both forms of DISCARD leave of cursor, assembly and flags: what the abandoning of the assembly leaves. -/
theorem TakenBy.abandoned {s t u : State} {r : Request} {rest : List Request} {l : List Part} {res : Result}
    (h : TakenBy s r rest l u res t) (hu : u.exe = (s.afterTaking rest).abandon.exe) :
    t.exe.assembly = [] ∧ t.exe.cursor = s.exe.cursor ∧ (s.exe.assembly ≠ [] → t.raised .writeAbandoned = true) := by
  obtain ⟨cursor, assembly⟩ := h.after .cursor (by decide)
  rw [hu] at cursor assembly
  refine ⟨assembly.trans (abandon_assembly _), cursor.trans (abandon_cursor _), fun ha => h.flags _ ?_⟩
  rw [State.raised, hu]
  exact abandon_raised (s := s.afterTaking rest) ha

/-- The taking of a DISCARD with a commit pending. -/
theorem exec_discard_of_pending {s : State} {r : Request} {rest : List Request} (hs : s.Quiet) (h : s.Head r rest)
    (hi : takingOf r = .discard) (hc : s.store.commitPending = true) :
    ∃ t, exec .discard s = .next t ∧
      TakenBy s r rest [.cursor, .events, .commit] (s.afterTaking rest).cancelCommit .ok t :=
  ⟨_, exec_discard s,
    takeVerb_takenBy hs h hi (actDiscard_of_pending r hc) (by decide) (cancelCommit_changes _) rfl⟩

/-- The taking of a DISCARD with no commit pending. -/
theorem exec_discard_of_noCommit {s : State} {r : Request} {rest : List Request} (hs : s.Quiet) (h : s.Head r rest)
    (hi : takingOf r = .discard) (hc : s.store.commitPending = false) :
    ∃ t, exec .discard s = .next t ∧
      TakenBy s r rest [.cursor, .events, .shadow] (s.afterTaking rest).restoreShadow .ok t := by
  have hu := restoreShadow_changes (s.afterTaking rest)
  exact ⟨_, exec_discard s,
    takeVerb_takenBy hs h hi (actDiscard_of_noCommit r hc) (by decide) hu ((hu .commit (by decide)).trans hc)⟩

/-- Settles O52: each taking is the verb's work followed by publication and the reply alone, and DISCARD's work is read by
whether a commit is pending. -/
theorem cursorAndDiscard : Obligations.CursorAndDiscard := by
  unfold Obligations.CursorAndDiscard
  intro s r rest h hkind
  refine ⟨fun hs tbl hi lo md l k m hp hk hm hn => ?_, fun l hs hp => ?_⟩
  · have htaking : takingOf r = .cursor := by rw [takingOf_cons hp, hkind]; rfl
    have args : r.hasArgs 4 = true ∧ r.arg 1 = tbl.toNat ∧ r.arg2 2 = hi.toNat * 256 + lo.toNat ∧ r.arg 4 = md.toNat := by
      simp [Request.hasArgs, Request.arg2, Request.arg, hp]
    obtain ⟨hargs, htbl, hindex, hmode⟩ := args
    obtain ⟨t, ht, taken⟩ := exec_cursor_takenBy hs h htaking hargs (by rw [htbl, hk, Table.ofCode_code])
      (by rw [hmode, hm]) (by rw [hindex]; exact hn)
    obtain ⟨cursor, assembly⟩ := taken.after .cursor (by decide)
    obtain ⟨offset, latched⟩ := taken.after .latched (by decide)
    rw [hindex] at cursor
    exact ⟨t, ht, taken.intake, taken.answered, cursor, assembly.trans (placeCursor_assembly _ _), offset, latched,
      fun ha => taken.flags _ (placeCursor_raised _ ha), taken.changes.mono (by decide)⟩
  · have htaking : takingOf r = .discard := by rw [takingOf_cons hp, hkind]; rfl
    cases hc : s.store.commitPending with
    | false =>
      obtain ⟨t, ht, taken⟩ := exec_discard_of_noCommit hs h htaking hc
      obtain ⟨assembly, cursor, flag⟩ := taken.abandoned rfl
      have shadow : t.store.shadow = s.store.active :=
        (taken.after .shadow (by decide)).trans (congrArg Store.active (abandon_store (s.afterTaking rest)))
      exact ⟨t, ht, taken.intake, taken.answered, assembly, cursor, flag,
        fun _ => ⟨shadow, taken.changes.mono (by decide)⟩, nofun⟩
    | true =>
      obtain ⟨t, ht, taken⟩ := exec_discard_of_pending hs h htaking hc
      obtain ⟨assembly, cursor, flag⟩ := taken.abandoned rfl
      exact ⟨t, ht, taken.intake, taken.answered, assembly, cursor, flag, nofun,
        fun _ => ⟨taken.after .commit (by decide), taken.changes.mono (by decide)⟩⟩

end Sys2Proof.Machine
end

section
/-! PROOF. The lighting commands SCENE, ALL_OFF and OVR_RELEASE (R99, R100, R104): what the work of each does to the groups,
and that a taking which works on the groups alone is followed by an evaluation, publication and the reply. -/

namespace Sys2Proof.Machine

/-! ### The end of a taking that works on the groups alone -/

/-- Without waiters an evaluation whose results are handed on touches no axis. -/
theorem evalHandOn_evaluated_published {s : State} (h : s.budget.waiters = []) :
    Changes (evaluated ++ published) s s.evalHandOn := by
  have eval : Changes evaluated s s.evalIfDue := by simpa [h] using evalIfDue_changes s
  rcases evalHandOn_cases s with e | e <;> rw [e]
  · exact eval.mono (by decide)
  · exact eval.trans (handOn_published _)

/-- Where no axis is STARTING and none waits, a taking ends with an evaluation, publication and the reply. -/
theorem conclude_evaluated_published {s : State} (hc : s.store.commitPending = false) (hn : s.noneStarting)
    (hw : s.budget.waiters = []) (r : Request) (res : Result) (d : List Byte) :
    Changes (evaluated ++ published) s (s.conclude r res d) := by
  have sub : ∀ p ∈ published, p ∈ evaluated ++ published := by decide
  rw [State.conclude, finish_of_noCommit hc, settle_of_noneStarting hn]
  exact (((evalHandOn_evaluated_published hw).seq ((publish_changes _).mono sub)).seq
    ((answer_published _ r res d).mono sub)).seq ((publish_changes _).mono sub)

/-- The taking of `r` from `s` has come to its end in `t`: the verb left the groups `gs`, and after its work came only an
evaluation, publication and the reply with the code `res`. -/
structure GroupsTaken (s : State) (r : Request) (rest : List Request) (gs : Vector LightGroup 12) (res : Result)
    (t : State) : Prop where
  intake : t.exe.intake = rest
  answered : Answered s t r res []
  groups : t.groups = gs
  changes : Changes (.intake :: .groups :: evaluated ++ published) s t

/-- A verb taken in a calm state, whose work changes the groups alone. -/
theorem takeVerb_groupsTaken {s u : State} {i : Instr} {r : Request} {rest : List Request} {res : Result}
    {act : Request → State → State × Result} (hs : s.Calm) (h : s.Head r rest) (hi : takingOf r = i)
    (hact : act r (s.afterTaking rest) = (u, res)) (hu : Changes [.groups] (s.afterTaking rest) u) :
    GroupsTaken s r rest u.groups res (s.takeVerb i act) := by
  have calm : (s.afterTaking rest).Calm := hs.afterTaking rest
  have hc : u.store.commitPending = false := (hu .commit (by decide)).trans calm.noCommit
  have hn : u.noneStarting := hu.noneStarting (by simp) calm.noneStarting
  have budget : u.budget = s.budget := hu .budget (by decide)
  have hw : u.budget.waiters = [] := by rw [budget, hs.noWaiters]
  have hlink : (u.port r.port).link = (s.port r.port).link := hu (.link r.port) (by simp)
  have hown : (u.port r.port).own = (s.port r.port).own := (hu (.own r.port) (by simp)).1
  have hafter : Changes (evaluated ++ published) u (u.conclude r res []) := conclude_evaluated_published hc hn hw r res []
  rw [takeVerb_of_head h hi, hact]
  exact {
    intake := (conclude_intake hc r res []).trans (hu .intake (by decide)).1
    answered := conclude_answered hc (hu .node (by decide)) (congrArg (fun x => x.2.2.2.1) hlink)
      (congrArg List.length hown).le
    groups := hafter .groups (by decide)
    changes := ((afterTaking_changes s rest).trans hu).trans hafter }

/-! ### Arguments -/

/-- The fade that the bytes after a verb's other arguments give where two are present, and `d` where they are not (R62). -/
def fadeOr (d : Nat) : List Byte → Nat
  | x :: y :: _ => min 600 (x.toNat * 256 + y.toNat)
  | _ => d

theorem optFade_getD {r : Request} {front tail : List Byte} (h : r.payload = front ++ tail) (d : Nat) :
    (r.optFade front.length).getD d = fadeOr d tail := by
  rcases tail with _ | ⟨x, _ | ⟨y, l⟩⟩ <;> simp [Request.optFade, Request.arg2, Request.arg, h, fadeOr]

theorem groupOf_of_eq {n : Nat} {g : Fin 12} (h : n = g.val) : groupOf n = some g := by
  subst h
  simp [groupOf]

/-! ### One group of the state -/

@[simp] theorem mapGroup_groups_same (s : State) (g : Fin 12) (f : LightGroup → LightGroup) :
    (s.mapGroup g f).groups[g] = f s.groups[g] :=
  vupdate_get_same _ _ _

theorem mapGroup_groups_other (s : State) {g k : Fin 12} (f : LightGroup → LightGroup) (h : k ≠ g) :
    (s.mapGroup g f).groups[k] = s.groups[k] :=
  vupdate_get_other _ _ h

/-! ### SCENE -/

theorem exec_scene (s : State) : exec .scene s = execScene s := rfl

/-- The group of a scene's item, if it names one that exists. -/
def State.sceneGroup (s : State) (scene j : Nat) : Option (Fin 12) :=
  groupOf (s.field .scene scene (SceneTable.itemGroup j))

/-- The base command that a scene's item gives to a group (R99). -/
def State.sceneCommand (s : State) (scene : Nat) (fade : Option Nat) (j : Nat) (g : LightGroup) : LightGroup :=
  Sys2Proof.Machine.baseCommand g (s.field .scene scene (SceneTable.itemLevel j))
    (fade.getD (s.field .scene scene (SceneTable.itemFade j)))

theorem sceneItem_of_none {s : State} {scene j : Nat} (fade : Option Nat) (h : s.sceneGroup scene j = none) :
    s.sceneItem scene fade j = (s, false) := by
  rw [State.sceneGroup] at h
  simp only [State.sceneItem, h]

theorem sceneItem_of_locked {s : State} {scene j : Nat} {g : Fin 12} (fade : Option Nat)
    (h : s.sceneGroup scene j = some g) (hl : s.groups[g].locked = true) : s.sceneItem scene fade j = (s, true) := by
  rw [State.sceneGroup] at h
  simp only [State.sceneItem, h, if_pos hl]

theorem sceneItem_of_unlocked {s : State} {scene j : Nat} {g : Fin 12} (fade : Option Nat)
    (h : s.sceneGroup scene j = some g) (hl : s.groups[g].locked = false) :
    s.sceneItem scene fade j = (s.mapGroup g (s.sceneCommand scene fade j), false) := by
  rw [State.sceneGroup] at h
  simp only [State.sceneItem, h, hl]
  rfl

/-- An item of a scene gives its base command to the group that it names, unless that is locked, and to no other (R99). -/
theorem sceneItem_groups (s : State) (scene : Nat) (fade : Option Nat) (j : Nat) (k : Fin 12) :
    (s.sceneItem scene fade j).1.groups[k] =
      if s.sceneGroup scene j = some k ∧ s.groups[k].locked = false then s.sceneCommand scene fade j s.groups[k]
      else s.groups[k] := by
  cases hg : s.sceneGroup scene j with
  | none => simp [sceneItem_of_none fade hg]
  | some g =>
    cases hl : s.groups[g].locked with
    | true =>
      have hk : ¬ (some g = some k ∧ s.groups[k].locked = false) := by
        rintro ⟨e, hfree⟩
        obtain rfl := Option.some.inj e
        exact Bool.false_ne_true (hfree.symm.trans hl)
      rw [sceneItem_of_locked fade hg hl, if_neg hk]
    | false =>
      rw [sceneItem_of_unlocked fade hg hl]
      by_cases hk : k = g
      · subst hk
        rw [mapGroup_groups_same, if_pos ⟨rfl, hl⟩]
      · rw [mapGroup_groups_other _ _ hk, if_neg fun h => hk (Option.some.inj h.1).symm]

/-- An item marks the scene partial exactly where it names a locked group (R99). -/
theorem sceneItem_skips (s : State) (scene : Nat) (fade : Option Nat) (j : Nat) :
    (s.sceneItem scene fade j).2 = true ↔ ∃ g, s.sceneGroup scene j = some g ∧ s.groups[g].locked = true := by
  cases hg : s.sceneGroup scene j with
  | none => simp [sceneItem_of_none fade hg]
  | some g =>
    cases hl : s.groups[g].locked with
    | true => exact iff_of_true (by rw [sceneItem_of_locked fade hg hl]) ⟨g, rfl, hl⟩
    | false =>
      refine iff_of_false (by simp [sceneItem_of_unlocked fade hg hl]) ?_
      rintro ⟨k, e, hlocked⟩
      obtain rfl := Option.some.inj e
      exact Bool.false_ne_true (hl.symm.trans hlocked)

theorem sceneItem_changes (s : State) (scene : Nat) (fade : Option Nat) (j : Nat) :
    Changes [.groups] s (s.sceneItem scene fade j).1 := by
  unfold State.sceneItem
  split
  · exact .refl _ _
  · split
    · exact .refl _ _
    · exact mapGroup_changes _ _ _

/-- The first `n` items of a scene have been applied to `s`: each that names a group that is not locked gave it the item's
base command, every other group is as it was, and the flag says that an item named a locked group (R99). -/
structure SceneApplied (s : State) (scene : Nat) (fade : Option Nat) (n : Nat) (q : State × Bool) : Prop where
  changes : Changes [.groups] s q.1
  commanded : ∀ j g, j < n → s.sceneGroup scene j = some g → s.groups[g].locked = false →
    q.1.groups[g] = s.sceneCommand scene fade j s.groups[g]
  kept : ∀ g : Fin 12, s.groups[g].locked = true ∨ (∀ j, j < n → s.sceneGroup scene j ≠ some g) →
    q.1.groups[g] = s.groups[g]
  skipped : q.2 = true ↔ ∃ j g, j < n ∧ s.sceneGroup scene j = some g ∧ s.groups[g].locked = true

/-- The items read the tables alone, which no item changes. -/
theorem sceneGroup_congr {s t : State} (h : Changes [.groups] s t) (scene j : Nat) :
    t.sceneGroup scene j = s.sceneGroup scene j :=
  congrArg groupOf (h.field (by decide) _ _ _)

theorem sceneCommand_congr {s t : State} (h : Changes [.groups] s t) (scene : Nat) (fade : Option Nat) (j : Nat)
    (g : LightGroup) : t.sceneCommand scene fade j g = s.sceneCommand scene fade j g := by
  simp only [State.sceneCommand, h.field (by decide)]

/-- One more item is applied, of a group that none of the items before it names. -/
theorem SceneApplied.next {s : State} {scene : Nat} {fade : Option Nat} {n : Nat} {q : State × Bool}
    (h : SceneApplied s scene fade n q)
    (new : ∀ j g, j < n → s.sceneGroup scene j = some g → s.sceneGroup scene n ≠ some g) :
    SceneApplied s scene fade (n + 1)
      ((q.1.sceneItem scene fade n).1, q.2 || (q.1.sceneItem scene fade n).2) := by
  have groups := sceneItem_groups q.1 scene fade n
  have skips := sceneItem_skips q.1 scene fade n
  simp only [sceneGroup_congr h.changes, sceneCommand_congr h.changes] at groups skips
  have fresh : ∀ g : Fin 12, s.sceneGroup scene n = some g → q.1.groups[g] = s.groups[g] := fun g hg =>
    h.kept g (.inr fun j hj hjg => new j g hj hjg hg)
  refine ⟨h.changes.seq (sceneItem_changes _ _ _ _), fun j g hj hg hl => ?_, fun g hg => ?_, ?_⟩
  · rw [groups]
    rcases Nat.lt_succ_iff_lt_or_eq.1 hj with hj | rfl
    · rw [if_neg fun k => new j g hj hg k.1]
      exact h.commanded j g hj hg hl
    · rw [fresh g hg, if_pos ⟨hg, hl⟩]
  · have same : q.1.groups[g] = s.groups[g] := h.kept g (hg.imp_right fun k j hj => k j (by omega))
    rw [groups, same, if_neg]
    rintro ⟨hn, hl⟩
    rcases hg with hlocked | hnone
    · exact Bool.false_ne_true (hl.symm.trans hlocked)
    · exact hnone n (by omega) hn
  · rw [Bool.or_eq_true, h.skipped, skips]
    constructor
    · rintro (⟨j, g, hj, hg, hl⟩ | ⟨g, hg, hl⟩)
      · exact ⟨j, g, by omega, hg, hl⟩
      · exact ⟨n, g, by omega, hg, fresh g hg ▸ hl⟩
    · rintro ⟨j, g, hj, hg, hl⟩
      rcases Nat.lt_succ_iff_lt_or_eq.1 hj with hj | rfl
      · exact .inl ⟨j, g, hj, hg, hl⟩
      · exact .inr ⟨g, hg, (fresh g hg).symm ▸ hl⟩

theorem sceneItems_applied {s : State} {scene : Nat} (fade : Option Nat) (n : Nat)
    (distinct : ∀ i j g, i < j → j < n → s.sceneGroup scene i = some g → s.sceneGroup scene j ≠ some g) :
    SceneApplied s scene fade n (s.sceneItems scene fade n) := by
  induction n with
  | zero => exact ⟨.refl _ _, by simp, fun _ _ => rfl, by simp [State.sceneItems]⟩
  | succ n ih =>
    exact (ih fun i j g hij hj => distinct i j g hij (by omega)).next fun j g hj => distinct j n g hj (by omega)

/-- The taking of a SCENE whose argument names a scene in which no two items name one group (R99). -/
theorem exec_scene_taken {s : State} {r : Request} {rest : List Request} (hs : s.Calm) (h : s.Head r rest)
    (hi : takingOf r = .scene) (ha : r.hasArgs 1 = true) (hn : r.arg 1 < 48)
    (distinct : ∀ i j g, i < j → j < s.field .scene (r.arg 1) SceneTable.count →
      s.sceneGroup (r.arg 1) i = some g → s.sceneGroup (r.arg 1) j ≠ some g) :
    ∃ q t, exec .scene s = .next t ∧
      SceneApplied (s.afterTaking rest) (r.arg 1) (r.optFade 2) (s.field .scene (r.arg 1) SceneTable.count) q ∧
      GroupsTaken s r rest q.1.groups (if q.2 then .partialDone else .ok) t := by
  have applied := sceneItems_applied (s := s.afterTaking rest) (r.optFade 2) _ distinct
  have named : ¬ (r.hasArgs 1 = false ∨ 47 < r.arg 1) := by simp [ha]; omega
  have hact : actScene r (s.afterTaking rest) = (_, _) := if_neg named
  exact ⟨_, _, exec_scene s, applied, takeVerb_groupsTaken hs h hi hact applied.changes⟩

/-! ### ALL_OFF -/

theorem exec_allOff (s : State) : exec .allOff s = execAllOff s := rfl

/-- What ALL_OFF makes of a group: a base command to level 0, unless it is locked (R100). -/
def State.allOffGroup (s : State) (fade : Option Nat) (g : Fin 12) (x : LightGroup) : LightGroup :=
  if x.locked then x else Sys2Proof.Machine.baseCommand x 0 (fade.getD (s.transition g))

theorem actAllOff_eq (r : Request) (s : State) :
    actAllOff r s = ({ s with groups := vmap (s.allOffGroup (r.optFade 1)) s.groups }, .ok) := rfl

/-! ### OVR_RELEASE -/

theorem exec_ovrRelease (s : State) : exec .ovrRelease s = execOvrRelease s := rfl

/-- OVR_RELEASE with arguments that name a group and a source reaches that group (R104, R105). -/
theorem actOvrRelease_of_args {r : Request} {g : Fin 12} (s : State) (ha : r.hasArgs 2 = true)
    (hg : groupOf (r.arg 1) = some g) (hn : r.arg 2 ≤ 15) :
    actOvrRelease r s = (s.releaseOverride g (r.arg 2), .ok) := by
  simp only [actOvrRelease, ha, hg, if_neg (Nat.not_lt.2 hn)]
  rfl

/-- The top is as it was exactly where it keeps source and level (R95). -/
theorem topChanged_cons_eq_false {st below : List Override} {top : Override} :
    topChanged st (top :: below) = false ↔
      ∃ old rest, st = old :: rest ∧ old.source = top.source ∧ old.level = top.level := by
  cases st <;> simp [topChanged]

theorem startFade_eq (level target f : Nat) :
    startFade level target f = (if f = 0 then target else level,
      if f = 0 then none else some { start := level, elapsed := 0, steps := f * 10, wait := 10 }) := by
  unfold startFade
  split <;> rfl

/-- The output follows every change of a stack (R95, R96). -/
theorem afterStack_outputFollows (g : LightGroup) (new : List Override) (t : Nat) :
    OutputFollows g (afterStack g new t) t where
  kept := by
    intro old rest top below hold hnew hsource hlevel
    rw [afterStack_stack] at hnew
    have same : topChanged g.stack (top :: below) = false :=
      topChanged_cons_eq_false.2 ⟨old, rest, hold, hsource, hlevel⟩
    simp [hnew, afterStack, same]
  governed := by
    intro top below hnew hchange
    rw [afterStack_stack] at hnew
    have changed : topChanged g.stack (top :: below) = true := by
      rw [← Bool.not_eq_false, topChanged_cons_eq_false]
      rintro ⟨old, rest, hold, hsource, hlevel⟩
      exact (hchange old rest hold).elim (absurd hsource) (absurd hlevel)
    simp [hnew, afterStack, changed, startFade_eq]
  returned := by
    intro hold hnew
    rw [afterStack_stack] at hnew
    simp [hnew, afterStack, hold, startFade_eq]

/-- A release takes the source's entry out of the stack and leaves the other entries in their order (R104). -/
theorem releaseGroup_stack (g : LightGroup) (src t : Nat) : (releaseGroup g src t).stack = dropSource src g.stack := by
  unfold releaseGroup
  split
  · exact afterStack_stack _ _ _
  · next h => exact (dropSource_of_absent (by simpa using h)).symm

theorem dropSource_eq_self_iff {src : Nat} {st : List Override} : dropSource src st = st ↔ hasSource src st = false := by
  simp [dropSource, hasSource, List.filter_eq_self]

theorem releaseGroup_of_absent {g : LightGroup} {src : Nat} (t : Nat) (h : dropSource src g.stack = g.stack) :
    releaseGroup g src t = g := by
  simp [releaseGroup, dropSource_eq_self_iff.1 h]

/-- The output follows a release (R104). -/
theorem releaseGroup_outputFollows {g : LightGroup} {src : Nat} (t : Nat) (h : dropSource src g.stack ≠ g.stack) :
    OutputFollows g (releaseGroup g src t) t := by
  have held : hasSource src g.stack = true := by simpa using mt dropSource_eq_self_iff.2 h
  rw [releaseGroup, if_pos held]
  exact afterStack_outputFollows _ _ _

/-! ### The statements settled -/

/-- Settles O22: SCENE by the items applied one after another, each to a group that no other names, and ALL_OFF group by
group. -/
theorem sceneAndAllOff : Obligations.SceneAndAllOff := by
  unfold Obligations.SceneAndAllOff
  intro s r rest hs h hkind
  refine ⟨fun c tail hp hc => ?_, fun tail hp => ?_⟩
  · have htaking : takingOf r = .scene := by rw [takingOf_cons hp, hkind]; rfl
    have fade : ∀ d, (r.optFade 2).getD d = fadeOr d tail := optFade_getD (front := [1, c]) hp
    have hargs : r.hasArgs 1 = true := by simp [Request.hasArgs, hp]
    have hscene : r.arg 1 = c.toNat := by simp [Request.arg, hp]
    rw [← hscene] at hc ⊢
    intro count item distinct
    obtain ⟨q, t, ht, applied, taken⟩ := exec_scene_taken hs h htaking hargs hc distinct
    refine ⟨t, ht, taken.intake, fun j g hj hg hl => ?_, fun g hg => ?_, fun hlocked => ?_, fun hfree => ?_, taken.changes⟩
    · rw [taken.groups, applied.commanded j g hj hg hl, State.sceneCommand, fade]
      rfl
    · rw [taken.groups]
      exact applied.kept g hg
    · have skipped : q.2 = true := applied.skipped.2 hlocked
      simpa [skipped] using taken.answered
    · have none_skipped : q.2 = false := by
        rw [← Bool.not_eq_true, applied.skipped]
        rintro ⟨j, g, hj, hg, hl⟩
        exact Bool.false_ne_true ((hfree j g hj hg).symm.trans hl)
      simpa [none_skipped] using taken.answered
  · have htaking : takingOf r = .allOff := by rw [takingOf_cons hp, hkind]; rfl
    have fade : ∀ d, (r.optFade 1).getD d = fadeOr d tail := optFade_getD (front := [3]) hp
    have taken := takeVerb_groupsTaken hs h htaking (actAllOff_eq r _) (with_groups _ _)
    refine ⟨_, exec_allOff s, taken.intake, taken.answered, fun g => ?_, taken.changes⟩
    rw [taken.groups, vmap_get, State.allOffGroup, fade]
    rfl

/-- Settles O24: the release of one group's override, read by whether the stack held an entry of the source. -/
theorem releasedOverrideLeaves : Obligations.ReleasedOverrideLeaves := by
  unfold Obligations.ReleasedOverrideLeaves
  intro s r rest c src l g hs h hkind hp hc hsrc x left
  have htaking : takingOf r = .ovrRelease := by rw [takingOf_cons hp, hkind]; rfl
  have hargs : r.hasArgs 2 = true := by simp [Request.hasArgs, hp]
  have hgroup : groupOf (r.arg 1) = some g := groupOf_of_eq (by simpa [Request.arg, hp] using hc)
  have hsource : r.arg 2 = src.toNat := by simp [Request.arg, hp]
  have hact := actOvrRelease_of_args (s.afterTaking rest) hargs hgroup (by omega)
  have taken := takeVerb_groupsTaken hs h htaking hact (mapGroup_changes _ _ _)
  rw [hsource] at taken
  have released : (s.takeVerb .ovrRelease actOvrRelease).groups[g] = releaseGroup x src.toNat (s.transition g) := by
    rw [taken.groups]
    exact mapGroup_groups_same _ _ _
  have stack := releaseGroup_stack x src.toNat (s.transition g)
  have follows : left ≠ x.stack → OutputFollows x (releaseGroup x src.toNat (s.transition g)) (s.transition g) :=
    releaseGroup_outputFollows (s.transition g)
  refine ⟨_, exec_ovrRelease s, taken.intake, taken.answered, fun k hk => ?_, taken.changes, ?_⟩
  · rw [taken.groups]
    exact mapGroup_groups_other _ _ hk
  · rw [released]
    refine ⟨stack, releaseGroup_of_absent _, follows, fun top below hleft htop hnew => ?_, fun hleft hnil => ?_⟩
    · have governed := (follows hleft).governed top below (stack.trans htop) fun old rest hx => hnew old (by simp [hx])
      rw [governed]
      exact ⟨rfl, rfl, fun ht => if_pos ht, fun ht => ⟨if_neg ht, if_neg ht⟩⟩
    · have held : x.stack ≠ [] := fun hx => hleft (hnil.trans hx.symm)
      have returned := (follows hleft).returned held (stack.trans hnil)
      rw [returned]
      exact ⟨rfl, rfl, rfl, fun ht => ⟨if_pos ht, if_pos ht⟩, fun ht => ⟨if_neg ht, if_neg ht, if_neg ht⟩⟩

end Sys2Proof.Machine
end
